-- ==== Sys2Proof/Word.lean ====
section
/-! DEFINITION. The word types of the machine (00_scope.md R7, R8): a word is 32 bits, a byte is 8 bits,
and a register field of an instruction is 4 bits. -/

namespace Sys2Proof

/-- A 32-bit word: a register, an address, an instruction (00_scope.md R6, R7). -/
abbrev Word := BitVec 32

/-- A byte of memory (00_scope.md section 8, 20_memory.md R72). -/
abbrev Byte := BitVec 8

/-- The number of a general register, or of a coprocessor register, as an instruction field holds it
(10_state.md R26, R40). -/
abbrev RegNum := BitVec 4

end Sys2Proof
end

