-- ==== Sys2Proof/Config.lean ====
section
/-! DEFINITION. What an implementation fixes and what the spec leaves free: the processor of the family,
the memory manager's answers, the coprocessors, the open parameters and the free values. -/

namespace Sys2Proof

/-- `VARIANT`: the five processors of 00_scope.md R5. -/
inductive Variant where
  | arm2
  | arm2aS
  | arm3
  | arm6
  | arm7dm
deriving DecidableEq, Repr

/-- The class `arm6plus` of 00_scope.md R5; the other processors are the class `pre6`. -/
def Variant.isArm6Plus : Variant → Bool
  | .arm6 | .arm7dm => true
  | .arm2 | .arm2aS | .arm3 => false

/-- SWP and SWPB exist on every processor but ARM 2 (00_scope.md R5, 48_swap.md R320). -/
def Variant.hasSwp : Variant → Bool
  | .arm2 => false
  | .arm2aS | .arm3 | .arm6 | .arm7dm => true

/-- The long multiplies exist on ARM7DM only (00_scope.md R5, 43_multiply.md R215). -/
def Variant.hasLongMultiply : Variant → Bool
  | .arm7dm => true
  | .arm2 | .arm2aS | .arm3 | .arm6 => false

/-- The processors taken as having no cache (20_memory.md R88, 92_eei_decisions.md D13). -/
def Variant.isUncached : Variant → Bool
  | .arm2 | .arm2aS => true
  | .arm3 | .arm6 | .arm7dm => false

/-- The size of one access: a byte or a word (20_memory.md R72). -/
inductive AccessSize where
  | byte
  | word
deriving DecidableEq, Repr

/-- The direction of one access. -/
inductive AccessDir where
  | read
  | write
deriving DecidableEq, Repr

/-- The privilege presented with an access (20_memory.md R75). -/
inductive Priv where
  | user
  | privileged
deriving DecidableEq, Repr

/-- One rule of the memory manager: it aborts an access of this size, direction and privilege whose byte
address lies in `lo .. hi`. `MEM` is "a function from (address, size, read or write, privilege) to supply or
abort" (20_memory.md R79), and every such function is a list of these rules. -/
structure AbortRule where
  lo   : Nat
  hi   : Nat
  size : AccessSize
  dir  : AccessDir
  priv : Priv
deriving DecidableEq, Repr

/-- One family of instruction words that a coprocessor responds to: those equal to `value` under `mask`. -/
structure AcceptPattern where
  mask  : Word
  value : Word
deriving DecidableEq, Repr

/-- The state of a coprocessor that is present: the words it accepts now, and its own registers, opaque to
the core (10_state.md R40, 47_coprocessor.md R296). An operation may change either. -/
structure Coproc where
  accepts : List AcceptPattern
  content : List Word
deriving DecidableEq, Repr, Inhabited

/-- `COPROC[p].cdp(w, st)`: the state after a CDP (47_coprocessor.md R296). OPEN: no body. -/
opaque Config.coprocCdp : RegNum → Word → Coproc → Coproc

/-- `COPROC[p].mrc(w, st)`, its word (47_coprocessor.md R296). OPEN: no body. -/
opaque Config.coprocMrcWord : RegNum → Word → Coproc → Word

/-- `COPROC[p].mrc(w, st)`, its new state (47_coprocessor.md R296). OPEN: no body. -/
opaque Config.coprocMrcState : RegNum → Word → Coproc → Coproc

/-- `COPROC[p].mcr(w, v, st)` (47_coprocessor.md R296). OPEN: no body. -/
opaque Config.coprocMcr : RegNum → Word → Word → Coproc → Coproc

/-- How many words after the first an LDC or STC transfers: `COPROC[p].count(w, st)` less one, so that the
count is at least 1 (47_coprocessor.md R296). OPEN: no body. -/
opaque Config.coprocMoreWords : RegNum → Word → Coproc → Nat

/-- `COPROC[p].ldc(w, words, st)` (47_coprocessor.md R296). OPEN: no body. -/
opaque Config.coprocLdc : RegNum → Word → List Word → Coproc → Coproc

/-- The k-th word that `COPROC[p].stc(w, st)` gives (47_coprocessor.md R296). OPEN: no body. -/
opaque Config.coprocStcWord : RegNum → Word → Coproc → Nat → Word

/-- The new state that `COPROC[p].stc(w, st)` gives (47_coprocessor.md R296). OPEN: no body. -/
opaque Config.coprocStcState : RegNum → Word → Coproc → Coproc

/-- A coprocessor's own reset, which the spec does not describe (70_reset_and_hazards.md R400). OPEN: no body. -/
opaque Config.coprocReset : RegNum → Coproc → Coproc

/-- Whether `STR_PC_OFFSET` is 12; otherwise it is 8 (00_scope.md R6, 44_single_data_transfer.md R246,
92_eei_decisions.md D12). OPEN: no body. -/
opaque Config.strPcOffsetIsTwelve : Bool

/-- Whether `ABORT_BASE` is `updated`; otherwise it is `unchanged` (00_scope.md R6,
44_single_data_transfer.md R248, 92_eei_decisions.md D14). OPEN: no body. -/
opaque Config.abortBaseUpdated : Bool

/-- The request inputs as the core finds them before one instruction (10_state.md R42, 60_exceptions.md R351,
R360). -/
structure Inputs where
  reset : Bool
  fiq   : Bool
  irq   : Bool
deriving DecidableEq, Repr, Inhabited

/-- The open schedule of the request inputs: its n-th sample (00_scope.md R6, "any schedule"). OPEN: no body. -/
opaque Config.scheduled : Nat → Inputs

/-- The free draw `any1` (00_scope.md R8): the n-th drawn bit. No body, so nothing can be proved of it. -/
opaque Config.freeBit : Nat → Bool

/-- The free draw `any32` (00_scope.md R8): the n-th drawn word. No body, so nothing can be proved of it. -/
opaque Config.freeWord : Nat → Word

end Sys2Proof
end

