-- ==== Sys2Proof/Syntax.lean ====
section
/-! DEFINITION. The instructions as syntax: one constructor for each mnemonic of spec/opcode_table.json (MSR has
one for each of its two forms), with the fields of 30_encoding.md R102 to R116. -/

namespace Sys2Proof

/-- The condition field, bits 31..28 of every instruction (30_encoding.md R101, 40_condition_codes.md R140). -/
inductive Cond where
  | eq | ne | cs | cc | mi | pl | vs | vc | hi | ls | ge | lt | gt | le | al | nv
deriving DecidableEq, Repr

/-- The kind of a shift, bits 6..5 (30_encoding.md R102). -/
inductive ShiftKind where
  | lsl | lsr | asr | ror
deriving DecidableEq, Repr

/-- The second operand of a data processing instruction (30_encoding.md R102, R103). -/
inductive Op2 where
  /-- `#b, ROR #2r`, the immediate form. -/
  | imm (r : BitVec 4) (b : BitVec 8)
  /-- Rm shifted by the 5-bit amount `c`. -/
  | shiftImm (rm : RegNum) (kind : ShiftKind) (c : BitVec 5)
  /-- Rm shifted by the bottom byte of Rc. -/
  | shiftReg (rm : RegNum) (kind : ShiftKind) (rc : RegNum)
deriving DecidableEq, Repr

/-- The offset of a single data transfer (30_encoding.md R107). -/
inductive Offset where
  /-- The unsigned 12-bit byte offset. -/
  | imm (o : BitVec 12)
  /-- Rm shifted by the 5-bit amount `c`. -/
  | shifted (rm : RegNum) (kind : ShiftKind) (c : BitVec 5)
deriving DecidableEq, Repr

/-- The addressing of a transfer: `pre` is P = 1 and W = 0, `preWriteBack` is P = 1 and W = 1. `post` is the
post-indexed form: P = 0 and W = 0 for LDR and STR (44_single_data_transfer.md R235), P = 0 and W = 1 for LDC and
STC (47_coprocessor.md R299). -/
inductive Indexing where
  | pre | preWriteBack | post
deriving DecidableEq, Repr

/-- Which parts of a status register MSR writes, the aaaa field (49_status_transfer_and_undefined.md R334). -/
inductive PsrPart where
  | ctl | flg | all
deriving DecidableEq, Repr

/-- The instructions. `sf` is the S bit, `up` the U bit, `s` the SPSR bit of MRS and MSR, and a field named
`sbz` is one that the spec says should be 0000 (30_encoding.md R115). -/
inductive Instr where
  -- data processing, 41_data_processing.md R165 to R180
  | and (c : Cond) (sf : Bool) (rd rn : RegNum) (op2 : Op2)
  | eor (c : Cond) (sf : Bool) (rd rn : RegNum) (op2 : Op2)
  | sub (c : Cond) (sf : Bool) (rd rn : RegNum) (op2 : Op2)
  | rsb (c : Cond) (sf : Bool) (rd rn : RegNum) (op2 : Op2)
  | add (c : Cond) (sf : Bool) (rd rn : RegNum) (op2 : Op2)
  | adc (c : Cond) (sf : Bool) (rd rn : RegNum) (op2 : Op2)
  | sbc (c : Cond) (sf : Bool) (rd rn : RegNum) (op2 : Op2)
  | rsc (c : Cond) (sf : Bool) (rd rn : RegNum) (op2 : Op2)
  | tst (c : Cond) (sbz rn : RegNum) (op2 : Op2)
  | tstp (c : Cond) (rn : RegNum) (op2 : Op2)
  | teq (c : Cond) (sbz rn : RegNum) (op2 : Op2)
  | teqp (c : Cond) (rn : RegNum) (op2 : Op2)
  | cmp (c : Cond) (sbz rn : RegNum) (op2 : Op2)
  | cmpp (c : Cond) (rn : RegNum) (op2 : Op2)
  | cmn (c : Cond) (sbz rn : RegNum) (op2 : Op2)
  | cmnp (c : Cond) (rn : RegNum) (op2 : Op2)
  | orr (c : Cond) (sf : Bool) (rd rn : RegNum) (op2 : Op2)
  | mov (c : Cond) (sf : Bool) (rd sbz : RegNum) (op2 : Op2)
  | bic (c : Cond) (sf : Bool) (rd rn : RegNum) (op2 : Op2)
  | mvn (c : Cond) (sf : Bool) (rd sbz : RegNum) (op2 : Op2)
  -- branch, 42_branch.md R201, R202
  | b (c : Cond) (o : BitVec 24)
  | bl (c : Cond) (o : BitVec 24)
  -- multiply, 43_multiply.md R211, R212, R216 to R219; the rn of MUL is ignored
  | mul (c : Cond) (sf : Bool) (rd rn rs rm : RegNum)
  | mla (c : Cond) (sf : Bool) (rd rn rs rm : RegNum)
  | umull (c : Cond) (sf : Bool) (rh rl rs rm : RegNum)
  | umlal (c : Cond) (sf : Bool) (rh rl rs rm : RegNum)
  | smull (c : Cond) (sf : Bool) (rh rl rs rm : RegNum)
  | smlal (c : Cond) (sf : Bool) (rh rl rs rm : RegNum)
  -- single data transfer, 44_single_data_transfer.md R237 to R244
  | ldr (c : Cond) (ix : Indexing) (up : Bool) (rn rd : RegNum) (off : Offset)
  | ldrb (c : Cond) (ix : Indexing) (up : Bool) (rn rd : RegNum) (off : Offset)
  | str (c : Cond) (ix : Indexing) (up : Bool) (rn rd : RegNum) (off : Offset)
  | strb (c : Cond) (ix : Indexing) (up : Bool) (rn rd : RegNum) (off : Offset)
  | ldrt (c : Cond) (up : Bool) (rn rd : RegNum) (off : Offset)
  | ldrbt (c : Cond) (up : Bool) (rn rd : RegNum) (off : Offset)
  | strt (c : Cond) (up : Bool) (rn rd : RegNum) (off : Offset)
  | strbt (c : Cond) (up : Bool) (rn rd : RegNum) (off : Offset)
  -- block data transfer, 45_block_data_transfer.md R266 to R275; `hat` is the S bit, `wb` the W bit
  | ldmia (c : Cond) (hat wb : Bool) (rn : RegNum) (list : BitVec 16)
  | ldmib (c : Cond) (hat wb : Bool) (rn : RegNum) (list : BitVec 16)
  | ldmda (c : Cond) (hat wb : Bool) (rn : RegNum) (list : BitVec 16)
  | ldmdb (c : Cond) (hat wb : Bool) (rn : RegNum) (list : BitVec 16)
  | stmia (c : Cond) (hat wb : Bool) (rn : RegNum) (list : BitVec 16)
  | stmib (c : Cond) (hat wb : Bool) (rn : RegNum) (list : BitVec 16)
  | stmda (c : Cond) (hat wb : Bool) (rn : RegNum) (list : BitVec 16)
  | stmdb (c : Cond) (hat wb : Bool) (rn : RegNum) (list : BitVec 16)
  -- software interrupt, 46_software_interrupt.md R290
  | swi (c : Cond) (y : BitVec 24)
  -- coprocessor, 47_coprocessor.md R298 to R304; `long` is the N bit
  | cdp (c : Cond) (o : BitVec 4) (crn crd p : RegNum) (q : BitVec 3) (crm : RegNum)
  | ldc (c : Cond) (ix : Indexing) (up long : Bool) (rn crd p : RegNum) (o : BitVec 8)
  | stc (c : Cond) (ix : Indexing) (up long : Bool) (rn crd p : RegNum) (o : BitVec 8)
  | mcr (c : Cond) (o : BitVec 3) (crn rd p : RegNum) (q : BitVec 3) (crm : RegNum)
  | mrc (c : Cond) (o : BitVec 3) (crn rd p : RegNum) (q : BitVec 3) (crm : RegNum)
  -- single data swap, 48_swap.md R321, R322
  | swp (c : Cond) (rn rd rm : RegNum)
  | swpb (c : Cond) (rn rd rm : RegNum)
  -- status register transfer, 49_status_transfer_and_undefined.md R333, R336, R337
  | mrs (c : Cond) (s : Bool) (rd : RegNum)
  | msrReg (c : Cond) (s : Bool) (part : PsrPart) (rm : RegNum)
  | msrImm (c : Cond) (s : Bool) (part : PsrPart) (r : BitVec 4) (b : BitVec 8)
  -- the words that trap (49 R340) and the words that no instruction has (30_encoding.md R118)
  | undefined (w : Word)
  | unallocated (w : Word)
deriving DecidableEq, Repr

end Sys2Proof
end

