-- ==== Sys2Proof/Decode.lean ====
section
/-! DEFINITION. Bits to instructions and back: the decode tree of 30_encoding.md R117, total on every word, and the
encoder, written from the bitmaps of R102 to R114. The byte order of words (20_memory.md R73) is fixed here too. -/

namespace Sys2Proof

/-- Bits `lo + len - 1` down to `lo` of a word. -/
abbrev fld (w : Word) (lo len : Nat) : BitVec len := w.extractLsb' lo len

/-- One bit of a word. -/
abbrev bit (w : Word) (i : Nat) : Bool := w.getLsbD i

/-- A little-endian word from its four bytes, lowest address first (20_memory.md R73). -/
def wordOfBytes (b0 b1 b2 b3 : Byte) : Word := b3 ++ b2 ++ b1 ++ b0

/-- The byte of a word that lies at its address plus `k` (20_memory.md R73). -/
def byteOfWord (w : Word) (k : Nat) : Byte := w.extractLsb' (8 * k) 8

/-! ### Field codes -/

/-- The condition numbers of 40_condition_codes.md R140. -/
def condOfBits (c : BitVec 4) : Cond :=
  match c.toNat with
  | 0 => .eq
  | 1 => .ne
  | 2 => .cs
  | 3 => .cc
  | 4 => .mi
  | 5 => .pl
  | 6 => .vs
  | 7 => .vc
  | 8 => .hi
  | 9 => .ls
  | 10 => .ge
  | 11 => .lt
  | 12 => .gt
  | 13 => .le
  | 14 => .al
  | _ => .nv

/-- The condition numbers of 40_condition_codes.md R140. -/
def condBits : Cond → BitVec 4
  | .eq => 0#4
  | .ne => 1#4
  | .cs => 2#4
  | .cc => 3#4
  | .mi => 4#4
  | .pl => 5#4
  | .vs => 6#4
  | .vc => 7#4
  | .hi => 8#4
  | .ls => 9#4
  | .ge => 10#4
  | .lt => 11#4
  | .gt => 12#4
  | .le => 13#4
  | .al => 14#4
  | .nv => 15#4

/-- Bits 6..5: 00 LSL, 01 LSR, 10 ASR, 11 ROR (30_encoding.md R102). -/
def shiftOfBits (t : BitVec 2) : ShiftKind :=
  match t.toNat with
  | 0 => .lsl
  | 1 => .lsr
  | 2 => .asr
  | _ => .ror

/-- Bits 6..5: 00 LSL, 01 LSR, 10 ASR, 11 ROR (30_encoding.md R102). -/
def shiftBits : ShiftKind → BitVec 2
  | .lsl => 0#2
  | .lsr => 1#2
  | .asr => 2#2
  | .ror => 3#2

/-- The P and W bits of LDR and STR (30_encoding.md R107); P = 0 with W = 1 is the T form, decoded apart. -/
def indexingOfBits (p w : Bool) : Indexing :=
  if p then (if w then .preWriteBack else .pre) else .post

/-- The P bit. -/
def Indexing.pBit : Indexing → Bool
  | .pre | .preWriteBack => true
  | .post => false

/-- The W bit of LDR and STR. -/
def Indexing.wBit : Indexing → Bool
  | .preWriteBack => true
  | .pre | .post => false

/-- The W bit of LDC and STC, where post-indexing has W = 1 (47_coprocessor.md R299). -/
def Indexing.wBitCoproc : Indexing → Bool
  | .preWriteBack | .post => true
  | .pre => false

/-- The aaaa field of MSR (49_status_transfer_and_undefined.md R334): none for a reserved value. -/
def psrPartOfBits (a : BitVec 4) : Option PsrPart :=
  match a.toNat with
  | 1 => some .ctl
  | 8 => some .flg
  | 9 => some .all
  | _ => none

/-- The aaaa field of MSR (49_status_transfer_and_undefined.md R334). -/
def psrPartBits : PsrPart → BitVec 4
  | .ctl => 1#4
  | .flg => 8#4
  | .all => 9#4

/-! ### The decoder -/

/-- Op2 of the register form: bits 11..0 (30_encoding.md R102). -/
def decodeOp2Reg (w : Word) : Op2 :=
  if bit w 4 then .shiftReg (fld w 0 4) (shiftOfBits (fld w 5 2)) (fld w 8 4)
  else .shiftImm (fld w 0 4) (shiftOfBits (fld w 5 2)) (fld w 7 5)

/-- Op2 of the immediate form: bits 11..0 (30_encoding.md R103). -/
def decodeOp2Imm (w : Word) : Op2 := .imm (fld w 8 4) (fld w 0 8)

/-- The operation table of 41_data_processing.md R160, with the P forms of R190: a compare whose dddd field is
1111. -/
def decodeDataProc (w : Word) (op2 : Op2) : Instr :=
  let c := condOfBits (fld w 28 4)
  let sf := bit w 20
  let rn := fld w 16 4
  let rd := fld w 12 4
  match (fld w 21 4).toNat with
  | 0 => .and c sf rd rn op2
  | 1 => .eor c sf rd rn op2
  | 2 => .sub c sf rd rn op2
  | 3 => .rsb c sf rd rn op2
  | 4 => .add c sf rd rn op2
  | 5 => .adc c sf rd rn op2
  | 6 => .sbc c sf rd rn op2
  | 7 => .rsc c sf rd rn op2
  | 8 => if rd = 15#4 then .tstp c rn op2 else .tst c rd rn op2
  | 9 => if rd = 15#4 then .teqp c rn op2 else .teq c rd rn op2
  | 10 => if rd = 15#4 then .cmpp c rn op2 else .cmp c rd rn op2
  | 11 => if rd = 15#4 then .cmnp c rn op2 else .cmn c rd rn op2
  | 12 => .orr c sf rd rn op2
  | 13 => .mov c sf rd rn op2
  | 14 => .bic c sf rd rn op2
  | _ => .mvn c sf rd rn op2

/-- The words of class 000 with bits 7 and 4 set, which are not data processing (30_encoding.md R117). -/
def decodeExtension (v : Variant) (w : Word) : Instr :=
  let c := condOfBits (fld w 28 4)
  if fld w 22 6 = 0b000000#6 ∧ fld w 4 4 = 0b1001#4 then
    if bit w 21 then .mla c (bit w 20) (fld w 16 4) (fld w 12 4) (fld w 8 4) (fld w 0 4)
    else .mul c (bit w 20) (fld w 16 4) (fld w 12 4) (fld w 8 4) (fld w 0 4)
  else if fld w 23 5 = 0b00001#5 ∧ fld w 4 4 = 0b1001#4 then
    if v.hasLongMultiply then
      if bit w 22 then
        if bit w 21 then .smlal c (bit w 20) (fld w 16 4) (fld w 12 4) (fld w 8 4) (fld w 0 4)
        else .smull c (bit w 20) (fld w 16 4) (fld w 12 4) (fld w 8 4) (fld w 0 4)
      else
        if bit w 21 then .umlal c (bit w 20) (fld w 16 4) (fld w 12 4) (fld w 8 4) (fld w 0 4)
        else .umull c (bit w 20) (fld w 16 4) (fld w 12 4) (fld w 8 4) (fld w 0 4)
    else .unallocated w
  else if fld w 24 4 = 0b0001#4 then
    if v.hasSwp then
      if bit w 23 = false ∧ fld w 20 2 = 0b00#2 ∧ fld w 8 4 = 0b0000#4 ∧ fld w 4 4 = 0b1001#4 then
        if bit w 22 then .swpb c (fld w 16 4) (fld w 12 4) (fld w 0 4)
        else .swp c (fld w 16 4) (fld w 12 4) (fld w 0 4)
      else .unallocated w
    else .undefined w
  else .unallocated w

/-- Class 000: multiplies, swaps, status transfers and the register form of data processing (30_encoding.md R117). -/
def decodeClass000 (v : Variant) (w : Word) : Instr :=
  let c := condOfBits (fld w 28 4)
  if bit w 7 ∧ bit w 4 then decodeExtension v w
  else if fld w 23 2 = 0b10#2 ∧ bit w 20 = false then
    if v.isArm6Plus ∧ fld w 20 2 = 0b00#2 ∧ fld w 16 4 = 0b1111#4 ∧ fld w 0 12 = 0#12 then
      .mrs c (bit w 22) (fld w 12 4)
    else if v.isArm6Plus ∧ fld w 20 2 = 0b10#2 ∧ fld w 4 12 = 0b111100000000#12 then
      match psrPartOfBits (fld w 16 4) with
      | some part => .msrReg c (bit w 22) part (fld w 0 4)
      | none => .unallocated w
    else .unallocated w
  else decodeDataProc w (decodeOp2Reg w)

/-- Class 001: the immediate forms of data processing and of MSR (30_encoding.md R117). -/
def decodeClass001 (v : Variant) (w : Word) : Instr :=
  if fld w 23 2 = 0b10#2 ∧ bit w 20 = false then
    if v.isArm6Plus ∧ bit w 21 ∧ fld w 12 4 = 0b1111#4 then
      match psrPartOfBits (fld w 16 4) with
      | some part => .msrImm (condOfBits (fld w 28 4)) (bit w 22) part (fld w 8 4) (fld w 0 8)
      | none => .unallocated w
    else .unallocated w
  else decodeDataProc w (decodeOp2Imm w)

/-- Classes 010 and 011: the single data transfers; P = 0 with W = 1 is the T form (30_encoding.md R107). -/
def decodeTransfer (w : Word) (off : Offset) : Instr :=
  let c := condOfBits (fld w 28 4)
  let ix := indexingOfBits (bit w 24) (bit w 21)
  let up := bit w 23
  let rn := fld w 16 4
  let rd := fld w 12 4
  if bit w 24 = false ∧ bit w 21 then
    if bit w 20 then (if bit w 22 then .ldrbt c up rn rd off else .ldrt c up rn rd off)
    else (if bit w 22 then .strbt c up rn rd off else .strt c up rn rd off)
  else
    if bit w 20 then (if bit w 22 then .ldrb c ix up rn rd off else .ldr c ix up rn rd off)
    else (if bit w 22 then .strb c ix up rn rd off else .str c ix up rn rd off)

/-- Class 100: the block data transfers (30_encoding.md R108, R131). -/
def decodeBlock (w : Word) : Instr :=
  let c := condOfBits (fld w 28 4)
  let hat := bit w 22
  let wb := bit w 21
  let rn := fld w 16 4
  let list := fld w 0 16
  if bit w 20 then
    if bit w 24 then (if bit w 23 then .ldmib c hat wb rn list else .ldmdb c hat wb rn list)
    else (if bit w 23 then .ldmia c hat wb rn list else .ldmda c hat wb rn list)
  else
    if bit w 24 then (if bit w 23 then .stmib c hat wb rn list else .stmdb c hat wb rn list)
    else (if bit w 23 then .stmia c hat wb rn list else .stmda c hat wb rn list)

/-- Class 110: the coprocessor data transfers; P = 0 with W = 0 is reserved (30_encoding.md R111). -/
def decodeCoprocTransfer (w : Word) : Instr :=
  let c := condOfBits (fld w 28 4)
  let ix := indexingOfBits (bit w 24) (bit w 21)
  if bit w 24 = false ∧ bit w 21 = false then .unallocated w
  else if bit w 20 then .ldc c ix (bit w 23) (bit w 22) (fld w 16 4) (fld w 12 4) (fld w 8 4) (fld w 0 8)
  else .stc c ix (bit w 23) (bit w 22) (fld w 16 4) (fld w 12 4) (fld w 8 4) (fld w 0 8)

/-- Class 111: SWI and the coprocessor operations and register transfers (30_encoding.md R109, R110, R112). -/
def decodeClass111 (w : Word) : Instr :=
  let c := condOfBits (fld w 28 4)
  if bit w 24 then .swi c (fld w 0 24)
  else if bit w 4 then
    if bit w 20 then .mrc c (fld w 21 3) (fld w 16 4) (fld w 12 4) (fld w 8 4) (fld w 5 3) (fld w 0 4)
    else .mcr c (fld w 21 3) (fld w 16 4) (fld w 12 4) (fld w 8 4) (fld w 5 3) (fld w 0 4)
  else .cdp c (fld w 20 4) (fld w 16 4) (fld w 12 4) (fld w 8 4) (fld w 5 3) (fld w 0 4)

/-- The decode procedure of 30_encoding.md R117 for processor `v`: "every 32-bit word reaches exactly one leaf". -/
def decode (v : Variant) (w : Word) : Instr :=
  match (fld w 25 3).toNat with
  | 0 => decodeClass000 v w
  | 1 => decodeClass001 v w
  | 2 => decodeTransfer w (.imm (fld w 0 12))
  | 3 => if bit w 4 then .undefined w
    else decodeTransfer w (.shifted (fld w 0 4) (shiftOfBits (fld w 5 2)) (fld w 7 5))
  | 4 => decodeBlock w
  | 5 => if bit w 24 then .bl (condOfBits (fld w 28 4)) (fld w 0 24)
    else .b (condOfBits (fld w 28 4)) (fld w 0 24)
  | 6 => decodeCoprocTransfer w
  | _ => decodeClass111 w

/-- Why bytes are no instruction: there are fewer than the four of 30_encoding.md R100. (Every four bytes decode: a
word without a meaning is an `Instr.unallocated`.) -/
inductive DecodeError where
  | truncated
deriving DecidableEq, Repr

/-- The instruction at the head of the bytes and the bytes after it (30_encoding.md R100: 32 bits, always). -/
def decodeBytes (v : Variant) : List Byte → Except DecodeError (Instr × List Byte)
  | b0 :: b1 :: b2 :: b3 :: rest => .ok (decode v (wordOfBytes b0 b1 b2 b3), rest)
  | _ => .error .truncated

/-! ### The encoder -/

/-- Bit 25 of a data processing instruction (30_encoding.md R102, R103). -/
def Op2.iBit : Op2 → BitVec 1
  | .imm .. => 1#1
  | .shiftImm .. => 0#1
  | .shiftReg .. => 0#1

/-- Bits 11..0 of a data processing instruction (30_encoding.md R102, R103). -/
def Op2.bits : Op2 → BitVec 12
  | .imm r b => r ++ b
  | .shiftImm rm kind c => c ++ shiftBits kind ++ 0#1 ++ rm
  | .shiftReg rm kind rc => rc ++ 0#1 ++ shiftBits kind ++ 1#1 ++ rm

/-- Bit 25 of a single data transfer (30_encoding.md R107). -/
def Offset.iBit : Offset → BitVec 1
  | .imm _ => 0#1
  | .shifted .. => 1#1

/-- Bits 11..0 of a single data transfer (30_encoding.md R107). -/
def Offset.bits : Offset → BitVec 12
  | .imm o => o
  | .shifted rm kind c => c ++ shiftBits kind ++ 0#1 ++ rm

/-- `xxxx00Ia aaaSnnnn dddd…` (30_encoding.md R102, R103). -/
def encodeDataProc (c : Cond) (op : BitVec 4) (sf : Bool) (rn rd : RegNum) (op2 : Op2) : Word :=
  condBits c ++ 0b00#2 ++ op2.iBit ++ op ++ BitVec.ofBool sf ++ rn ++ rd ++ op2.bits

/-- `xxxx0000 LUAShhhh llllssss 1001mmmm`: `kind` is bits 23..21 (30_encoding.md R105, R106). -/
def encodeMultiply (c : Cond) (kind : BitVec 3) (sf : Bool) (rh rl rs rm : RegNum) : Word :=
  condBits c ++ 0b0000#4 ++ kind ++ BitVec.ofBool sf ++ rh ++ rl ++ rs ++ 0b1001#4 ++ rm

/-- `xxxx01IP UBWLnnnn dddd…` (30_encoding.md R107). -/
def encodeTransfer (c : Cond) (p up byte w load : Bool) (rn rd : RegNum) (off : Offset) : Word :=
  condBits c ++ 0b01#2 ++ off.iBit ++ BitVec.ofBool p ++ BitVec.ofBool up ++ BitVec.ofBool byte
    ++ BitVec.ofBool w ++ BitVec.ofBool load ++ rn ++ rd ++ off.bits

/-- `xxxx100P USWLnnnn llllllll llllllll` (30_encoding.md R108). -/
def encodeBlock (c : Cond) (p up hat wb load : Bool) (rn : RegNum) (list : BitVec 16) : Word :=
  condBits c ++ 0b100#3 ++ BitVec.ofBool p ++ BitVec.ofBool up ++ BitVec.ofBool hat ++ BitVec.ofBool wb
    ++ BitVec.ofBool load ++ rn ++ list

/-- `xxxx110P UNWLnnnn DDDDpppp oooooooo` (30_encoding.md R111). -/
def encodeCoprocTransfer (c : Cond) (ix : Indexing) (up long load : Bool) (rn crd p : RegNum) (o : BitVec 8) : Word :=
  condBits c ++ 0b110#3 ++ BitVec.ofBool ix.pBit ++ BitVec.ofBool up ++ BitVec.ofBool long
    ++ BitVec.ofBool ix.wBitCoproc ++ BitVec.ofBool load ++ rn ++ crd ++ p ++ o

/-- `xxxx1110 oooLNNNN ddddpppp qqq1MMMM` (30_encoding.md R112). -/
def encodeCoprocRegister (c : Cond) (o : BitVec 3) (load : Bool) (crn rd p : RegNum) (q : BitVec 3) (crm : RegNum) : Word :=
  condBits c ++ 0b1110#4 ++ o ++ BitVec.ofBool load ++ crn ++ rd ++ p ++ q ++ 1#1 ++ crm

/-- `xxxx0001 0B00nnnn dddd0000 1001mmmm` (30_encoding.md R113). -/
def encodeSwap (c : Cond) (byte : Bool) (rn rd rm : RegNum) : Word :=
  condBits c ++ 0b00010#5 ++ BitVec.ofBool byte ++ 0b00#2 ++ rn ++ rd ++ 0b00001001#8 ++ rm

/-- The word of an instruction, from the bitmaps of 30_encoding.md R102 to R114. -/
def encode : Instr → Word
  | .and c sf rd rn op2 => encodeDataProc c 0b0000#4 sf rn rd op2
  | .eor c sf rd rn op2 => encodeDataProc c 0b0001#4 sf rn rd op2
  | .sub c sf rd rn op2 => encodeDataProc c 0b0010#4 sf rn rd op2
  | .rsb c sf rd rn op2 => encodeDataProc c 0b0011#4 sf rn rd op2
  | .add c sf rd rn op2 => encodeDataProc c 0b0100#4 sf rn rd op2
  | .adc c sf rd rn op2 => encodeDataProc c 0b0101#4 sf rn rd op2
  | .sbc c sf rd rn op2 => encodeDataProc c 0b0110#4 sf rn rd op2
  | .rsc c sf rd rn op2 => encodeDataProc c 0b0111#4 sf rn rd op2
  | .tst c sbz rn op2 => encodeDataProc c 0b1000#4 true rn sbz op2
  | .tstp c rn op2 => encodeDataProc c 0b1000#4 true rn 15#4 op2
  | .teq c sbz rn op2 => encodeDataProc c 0b1001#4 true rn sbz op2
  | .teqp c rn op2 => encodeDataProc c 0b1001#4 true rn 15#4 op2
  | .cmp c sbz rn op2 => encodeDataProc c 0b1010#4 true rn sbz op2
  | .cmpp c rn op2 => encodeDataProc c 0b1010#4 true rn 15#4 op2
  | .cmn c sbz rn op2 => encodeDataProc c 0b1011#4 true rn sbz op2
  | .cmnp c rn op2 => encodeDataProc c 0b1011#4 true rn 15#4 op2
  | .orr c sf rd rn op2 => encodeDataProc c 0b1100#4 sf rn rd op2
  | .mov c sf rd sbz op2 => encodeDataProc c 0b1101#4 sf sbz rd op2
  | .bic c sf rd rn op2 => encodeDataProc c 0b1110#4 sf rn rd op2
  | .mvn c sf rd sbz op2 => encodeDataProc c 0b1111#4 sf sbz rd op2
  | .b c o => condBits c ++ 0b1010#4 ++ o
  | .bl c o => condBits c ++ 0b1011#4 ++ o
  | .mul c sf rd rn rs rm => encodeMultiply c 0b000#3 sf rd rn rs rm
  | .mla c sf rd rn rs rm => encodeMultiply c 0b001#3 sf rd rn rs rm
  | .umull c sf rh rl rs rm => encodeMultiply c 0b100#3 sf rh rl rs rm
  | .umlal c sf rh rl rs rm => encodeMultiply c 0b101#3 sf rh rl rs rm
  | .smull c sf rh rl rs rm => encodeMultiply c 0b110#3 sf rh rl rs rm
  | .smlal c sf rh rl rs rm => encodeMultiply c 0b111#3 sf rh rl rs rm
  | .ldr c ix up rn rd off => encodeTransfer c ix.pBit up false ix.wBit true rn rd off
  | .ldrb c ix up rn rd off => encodeTransfer c ix.pBit up true ix.wBit true rn rd off
  | .str c ix up rn rd off => encodeTransfer c ix.pBit up false ix.wBit false rn rd off
  | .strb c ix up rn rd off => encodeTransfer c ix.pBit up true ix.wBit false rn rd off
  | .ldrt c up rn rd off => encodeTransfer c false up false true true rn rd off
  | .ldrbt c up rn rd off => encodeTransfer c false up true true true rn rd off
  | .strt c up rn rd off => encodeTransfer c false up false true false rn rd off
  | .strbt c up rn rd off => encodeTransfer c false up true true false rn rd off
  | .ldmia c hat wb rn list => encodeBlock c false true hat wb true rn list
  | .ldmib c hat wb rn list => encodeBlock c true true hat wb true rn list
  | .ldmda c hat wb rn list => encodeBlock c false false hat wb true rn list
  | .ldmdb c hat wb rn list => encodeBlock c true false hat wb true rn list
  | .stmia c hat wb rn list => encodeBlock c false true hat wb false rn list
  | .stmib c hat wb rn list => encodeBlock c true true hat wb false rn list
  | .stmda c hat wb rn list => encodeBlock c false false hat wb false rn list
  | .stmdb c hat wb rn list => encodeBlock c true false hat wb false rn list
  | .swi c y => condBits c ++ 0b1111#4 ++ y
  | .cdp c o crn crd p q crm => condBits c ++ 0b1110#4 ++ o ++ crn ++ crd ++ p ++ q ++ 0#1 ++ crm
  | .ldc c ix up long rn crd p o => encodeCoprocTransfer c ix up long true rn crd p o
  | .stc c ix up long rn crd p o => encodeCoprocTransfer c ix up long false rn crd p o
  | .mcr c o crn rd p q crm => encodeCoprocRegister c o false crn rd p q crm
  | .mrc c o crn rd p q crm => encodeCoprocRegister c o true crn rd p q crm
  | .swp c rn rd rm => encodeSwap c false rn rd rm
  | .swpb c rn rd rm => encodeSwap c true rn rd rm
  | .mrs c s rd => condBits c ++ 0b00010#5 ++ BitVec.ofBool s ++ 0b001111#6 ++ rd ++ 0#12
  | .msrReg c s part rm =>
    condBits c ++ 0b00010#5 ++ BitVec.ofBool s ++ 0b10#2 ++ psrPartBits part ++ 0b111100000000#12 ++ rm
  | .msrImm c s part r b =>
    condBits c ++ 0b00110#5 ++ BitVec.ofBool s ++ 0b10#2 ++ psrPartBits part ++ 0b1111#4 ++ r ++ b
  | .undefined w => w
  | .unallocated w => w

/-- The instruction the decoder of an ARM7DM, the processor of `State.reset` (log 1), reads from the four bytes of
the word whose value is `w`; none for another length than 32 bits. -/
def decodeTableWord (nbits w : Nat) : Option Instr :=
  if nbits = 32 then
    let word := BitVec.ofNat 32 w
    match decodeBytes .arm7dm
        [byteOfWord word 0, byteOfWord word 1, byteOfWord word 2, byteOfWord word 3] with
    | .ok (i, _) => some i
    | .error _ => none
  else none

end Sys2Proof
end

