-- ==== Sys2Proof/Machine/State.lean ====
section
/-! DEFINITION. The state of the machine (10_state.md), plain data: the 30 general registers other than R15, the
program counter, the status and the saved statuses, memory, the coprocessors, the inputs still to come; the reasons
a step can stop; the state after reset (10_state.md R45, 70_reset_and_hazards.md R400). -/

namespace Sys2Proof.Machine

/-- The physical general registers other than R15 (10_state.md R21). -/
inductive PhysReg where
  | r0 | r1 | r2 | r3 | r4 | r5 | r6 | r7
  | r8 | r9 | r10 | r11 | r12 | r13 | r14
  | r8Fiq | r9Fiq | r10Fiq | r11Fiq | r12Fiq | r13Fiq | r14Fiq
  | r13Irq | r14Irq
  | r13Svc | r14Svc
  | r13Abt | r14Abt
  | r13Und | r14Und
deriving DecidableEq, Repr

/-- The register banks (10_state.md R22). -/
inductive Bank where
  | usr | fiq | irq | svc | abt | und
deriving DecidableEq, Repr

/-- The ten defined processor modes (10_state.md R37). On `pre6` only the first four exist. -/
inductive Mode where
  | usr26 | fiq26 | irq26 | svc26
  | usr32 | fiq32 | irq32 | svc32 | abt32 | und32
deriving DecidableEq, Repr

/-- The current status (10_state.md R27): the CPSR, which a 26-bit mode shows in R15 (R36). `i` and `f` disable IRQ
and FIQ. -/
structure Cpsr where
  n : Bool
  z : Bool
  c : Bool
  v : Bool
  i : Bool
  f : Bool
  mode : Mode
deriving DecidableEq, Repr

/-- A saved status register (10_state.md R35). `m` is whatever was written to its mode field, defined or not
(49_status_transfer_and_undefined.md R335). -/
structure Psr where
  n : Bool
  z : Bool
  c : Bool
  v : Bool
  i : Bool
  f : Bool
  m : BitVec 5
deriving DecidableEq, Repr

/-- Memory: the bytes that differ from what an unlisted address reads as, addresses strictly rising. -/
abbrev Memory := List Host.Cell

/-- The schedule of the request inputs, any (00_scope.md R6, 60_exceptions.md R360): the samples `near`, nearest first, then those of
the open schedule `Config.scheduled` from number `later` on, or no request ever again when `later` is none (log 11). -/
structure Schedule where
  near  : List Inputs
  later : Option Nat
deriving DecidableEq, Repr

/-- The state of the machine. -/
structure State where
  /-- `VARIANT` (00_scope.md R5): which processor this is. No step writes it. -/
  variant : Variant
  /-- `MEM` (20_memory.md R78, R79): the accesses the memory manager aborts. No step writes it. -/
  memMap : List AbortRule
  /-- The 30 general registers other than R15 (10_state.md R21), in the order of `PhysReg`. -/
  regs : Vector Word 30
  /-- The current status (10_state.md R27). -/
  cpsr : Cpsr
  /-- SPSR_fiq (10_state.md R35). -/
  spsrFiq : Psr
  /-- SPSR_irq (10_state.md R35). -/
  spsrIrq : Psr
  /-- SPSR_svc (10_state.md R35). -/
  spsrSvc : Psr
  /-- SPSR_abt (10_state.md R35). -/
  spsrAbt : Psr
  /-- SPSR_und (10_state.md R35). -/
  spsrUnd : Psr
  /-- `A`, the byte address of the instruction that executes next (10_state.md R30). -/
  pc : Word
  /-- The bytes of memory (20_memory.md R70, R71). -/
  mem : Memory
  /-- The word addresses the program has stored into (on an uncached processor: since the pc was last written), rising:
  executing one of them is refused (20_memory.md R88, 92_eei_decisions.md D13). -/
  storedWords : List Nat
  /-- The LOCK output (10_state.md R43): high during the two accesses of a SWP, so low between instructions. -/
  lock : Bool
  /-- The coprocessors 0 to 15, absent or present (47_coprocessor.md R295, R296). -/
  coprocs : Vector (Option Coproc) 16
  /-- What the request inputs will be before the coming instructions (60_exceptions.md R360). -/
  inputs : Schedule
  /-- The model's own counter of free values drawn (00_scope.md R8, `any1` and `any32`). -/
  draws : Nat
deriving DecidableEq, Repr

/-- The faults. -/
inductive Fault where
  /-- Raised by a data access whose address has any of bits 31..26 set on a `pre6` processor, whose data addresses are
  26 bits (20_memory.md R71, `UNPREDICTABLE(address-above-64M)`). Safe: the machine stops where the spec gives no
  effect. -/
  | addressAbove64M
deriving DecidableEq, Repr

/-- The refusals: one for each tag of 93_implementation_defined.md part 1 whose treatment is "refuse". All are safe: the
spec gives the case no effect, so nothing is claimed of it. -/
inductive Refusal where
  /-- Raised by `exec` for an instruction that has no meaning yet. Safe. -/
  | notModelled (mnemonic : String)
  /-- Raised by a word of the spaces U1 to U6 (30_encoding.md R118). Safe. -/
  | unallocatedEncoding
  /-- Raised by MOV and MVN with Rn not 0000 and by comparisons with Rd not 0000 (30_encoding.md R115). Safe. -/
  | shouldBeZero
  /-- Raised by a write of a value that is no defined mode to the current mode (10_state.md R38). Safe. -/
  | modeIllegal
  /-- Raised by any use of an SPSR in user mode (10_state.md R39, 49_status_transfer_and_undefined.md R331). Safe. -/
  | spsrInUser
  /-- Raised by TSTP, TEQP, CMPP, CMNP in a 32-bit mode (41_data_processing.md R190). Safe. -/
  | pFormIn32bit
  /-- Raised by R15 as Rn, Rm or Rc with a register-specified shift (41_data_processing.md R152). Safe. -/
  | r15WithRegisterShift
  /-- Raised by MUL and MLA with Rd = Rm (43_multiply.md R214). Safe. -/
  | mulRdEqualsRm
  /-- Raised by MUL and MLA that name R15 (43_multiply.md R214). Safe. -/
  | mulR15
  /-- Raised by a long multiply that names R15 (43_multiply.md R221). Safe. -/
  | mullR15
  /-- Raised by a long multiply whose Rh, Rl and Rm are not all different (43_multiply.md R221). Safe. -/
  | mullRegOverlap
  /-- Raised by a single data transfer with Rm = R15 (44_single_data_transfer.md R245). Safe. -/
  | sdtRmR15
  /-- Raised by a single data transfer that writes back to R15 (44_single_data_transfer.md R245). Safe. -/
  | sdtWritebackR15
  /-- Raised by a byte transfer with Rd = R15 (44_single_data_transfer.md R245). Safe. -/
  | sdtByteR15
  /-- Raised by post-indexing with Rn = Rm (44_single_data_transfer.md R245). Safe. -/
  | sdtPostindexRnEqualsRm
  /-- Raised by write-back with Rd = Rn (44_single_data_transfer.md R245). Safe. -/
  | sdtRdEqualsRnWriteback
  /-- Raised by LDM and STM with base R15 (45_block_data_transfer.md R278). Safe. -/
  | bdtBaseR15
  /-- Raised by LDM with write-back and its base in the list (45_block_data_transfer.md R276, R278). Safe. -/
  | ldmBaseInListWriteback
  /-- Raised by a user-bank transfer in user mode (45_block_data_transfer.md R270, R278). Safe. -/
  | bdtSInUser
  /-- Raised by LDM and STM with an empty list (45_block_data_transfer.md R278). Safe. -/
  | bdtEmptyList
  /-- Raised by a user-bank transfer with write-back (45_block_data_transfer.md R278). Safe. -/
  | bdtUserBankWriteback
  /-- Raised by LDC and STC with write-back to R15 (47_coprocessor.md R299). Safe. -/
  | ldcWritebackR15
  /-- Raised by MCR with Rd = R15 (47_coprocessor.md R303). Safe. -/
  | mcrR15
  /-- Raised by SWP and SWPB that name R15 (48_swap.md R321). Safe. -/
  | swpR15
  /-- Raised by MRS with Rd = R15 (49_status_transfer_and_undefined.md R333). Safe. -/
  | mrsR15
  /-- Raised by MSR with Rm = R15 (49_status_transfer_and_undefined.md R336). Safe. -/
  | msrR15
  /-- Raised by a word access at an address that is no multiple of 4 (20_memory.md R74). Safe. -/
  | unalignedWord
  /-- Raised when the pc would step past the top of its range (10_state.md R30). Safe. -/
  | pcWrap
  /-- Raised on entering a 26-bit mode with the next pc above 64 MBytes (10_state.md R39,
  49_status_transfer_and_undefined.md R335). Safe. -/
  | pcAbove64MIn26bit
  /-- Raised by executing a word the program has stored (20_memory.md R88, 70_reset_and_hazards.md R410, 92_eei_decisions.md D13:
  "treatment refuse"). Safe. -/
  | selfModifyingCode
deriving DecidableEq, Repr

/-- The outcome of a step or of an instruction's meaning. -/
abbrev Result := Host.Outcome State Fault Refusal

/-- The machine after reset, with the open parameters of 00_scope.md R6 as arguments: the processor `v`, the memory manager's answers
`memMap`, the coprocessors and the schedule of requests. SVC mode, I = F = 1, pc = 0 (10_state.md R45, 70_reset_and_hazards.md R400).
Every other register is zero, the value that logs 2 and 3 name; nothing is listed in memory (log 4). -/
def State.resetOn (v : Variant) (memMap : List AbortRule) (coprocs : Vector (Option Coproc) 16) (inputs : Schedule) :
    State where
  variant := v
  memMap := memMap
  regs := Vector.replicate 30 0#32
  cpsr := ⟨false, false, false, false, true, true, if v.isArm6Plus then .svc32 else .svc26⟩
  spsrFiq := ⟨false, false, false, false, false, false, 0#5⟩
  spsrIrq := ⟨false, false, false, false, false, false, 0#5⟩
  spsrSvc := ⟨false, false, false, false, false, false, 0#5⟩
  spsrAbt := ⟨false, false, false, false, false, false, 0#5⟩
  spsrUnd := ⟨false, false, false, false, false, false, 0#5⟩
  pc := 0#32
  mem := []
  storedWords := []
  lock := false
  coprocs := coprocs
  inputs := inputs
  draws := 0

/-- The machine after reset: an ARM7DM (log 1) on which no access aborts (log 5), with no coprocessor (log 6) and no request made
(log 11). -/
def State.reset : State := State.resetOn .arm7dm [] (Vector.replicate 16 none) ⟨[], none⟩

end Sys2Proof.Machine
end

