-- ==== Sys2Proof/Machine/Ops.lean ====
section
/-! DEFINITION. The named operations over modes, registers, memory and the pc that every meaning is built from; taking
an exception (60_exceptions.md R353) and returning from one (10_state.md R34, R39) among them. -/

namespace Sys2Proof.Machine

/-! ### Modes and banks -/

/-- The 26-bit PC modes: M[4] = 0 (10_state.md R37). -/
def Mode.is26 : Mode → Bool
  | .usr26 | .fiq26 | .irq26 | .svc26 => true
  | .usr32 | .fiq32 | .irq32 | .svc32 | .abt32 | .und32 => false

/-- The bank of a mode, chosen by M[3:0] alone (10_state.md R22). -/
def Mode.bank : Mode → Bank
  | .usr26 | .usr32 => .usr
  | .fiq26 | .fiq32 => .fiq
  | .irq26 | .irq32 => .irq
  | .svc26 | .svc32 => .svc
  | .abt32 => .abt
  | .und32 => .und

/-- "Every other defined mode is privileged" (10_state.md R37). -/
def Mode.isPrivileged (m : Mode) : Bool := m.bank != .usr

/-- The mode numbers M[4:0] (10_state.md R37). -/
def Mode.toBits : Mode → BitVec 5
  | .usr26 => 0b00000#5
  | .fiq26 => 0b00001#5
  | .irq26 => 0b00010#5
  | .svc26 => 0b00011#5
  | .usr32 => 0b10000#5
  | .fiq32 => 0b10001#5
  | .irq32 => 0b10010#5
  | .svc32 => 0b10011#5
  | .abt32 => 0b10111#5
  | .und32 => 0b11011#5

/-- The mode of a number; none for a number that 10_state.md R37 does not define (R38). -/
def Mode.ofBits (m : BitVec 5) : Option Mode :=
  match m.toNat with
  | 0 => some .usr26
  | 1 => some .fiq26
  | 2 => some .irq26
  | 3 => some .svc26
  | 16 => some .usr32
  | 17 => some .fiq32
  | 18 => some .irq32
  | 19 => some .svc32
  | 23 => some .abt32
  | 27 => some .und32
  | _ => none

/-- The 26-bit mode of M[1:0] with M[4:2] = 000: all four values are defined (10_state.md R37). -/
def Mode.of26 (m : BitVec 2) : Mode :=
  match m.toNat with
  | 0 => .usr26
  | 1 => .fiq26
  | 2 => .irq26
  | _ => .svc26

/-- `is26` (00_scope.md R8). -/
abbrev State.is26 (s : State) : Bool := s.cpsr.mode.is26

/-- `privileged` (00_scope.md R8). -/
abbrev State.isPrivileged (s : State) : Bool := s.cpsr.mode.isPrivileged

/-! ### General registers -/

/-- Where `State.regs` keeps a physical register. -/
def PhysReg.index : PhysReg → Fin 30
  | .r0 => 0 | .r1 => 1 | .r2 => 2 | .r3 => 3 | .r4 => 4 | .r5 => 5 | .r6 => 6 | .r7 => 7
  | .r8 => 8 | .r9 => 9 | .r10 => 10 | .r11 => 11 | .r12 => 12 | .r13 => 13 | .r14 => 14
  | .r8Fiq => 15 | .r9Fiq => 16 | .r10Fiq => 17 | .r11Fiq => 18 | .r12Fiq => 19 | .r13Fiq => 20 | .r14Fiq => 21
  | .r13Irq => 22 | .r14Irq => 23
  | .r13Svc => 24 | .r14Svc => 25
  | .r13Abt => 26 | .r14Abt => 27
  | .r13Und => 28 | .r14Und => 29

/-- The physical register that `x[i]` names in a bank (10_state.md R23); none for i = 15, which is not a register of
any bank. -/
def physReg (b : Bank) (i : RegNum) : Option PhysReg :=
  match i.toNat with
  | 0 => some .r0
  | 1 => some .r1
  | 2 => some .r2
  | 3 => some .r3
  | 4 => some .r4
  | 5 => some .r5
  | 6 => some .r6
  | 7 => some .r7
  | 8 => some (match b with | .fiq => .r8Fiq | _ => .r8)
  | 9 => some (match b with | .fiq => .r9Fiq | _ => .r9)
  | 10 => some (match b with | .fiq => .r10Fiq | _ => .r10)
  | 11 => some (match b with | .fiq => .r11Fiq | _ => .r11)
  | 12 => some (match b with | .fiq => .r12Fiq | _ => .r12)
  | 13 => some (match b with
    | .usr => .r13 | .fiq => .r13Fiq | .irq => .r13Irq | .svc => .r13Svc | .abt => .r13Abt | .und => .r13Und)
  | 14 => some (match b with
    | .usr => .r14 | .fiq => .r14Fiq | .irq => .r14Irq | .svc => .r14Svc | .abt => .r14Abt | .und => .r14Und)
  | _ => none

/-- The value of a physical register. -/
def State.phys (s : State) (p : PhysReg) : Word := s.regs[p.index]

/-- The state with one physical register written. -/
def State.setPhys (s : State) (p : PhysReg) (v : Word) : State := { s with regs := s.regs.set p.index v }

/-- Reads register i of a bank. There is no register 15 in a bank and no rule asks for it: every meaning deals with R15
before (log 24). -/
def State.bankReg (s : State) (b : Bank) (i : RegNum) : Word :=
  match physReg b i with
  | some p => s.phys p
  | none => s.pc

/-- Writes register i of a bank; there is no register 15 in a bank and no rule asks for it (log 24). -/
def State.setBankReg (s : State) (b : Bank) (i : RegNum) (v : Word) : State :=
  match physReg b i with
  | some p => s.setPhys p v
  | none => s

/-- `x[i]`, in the bank of the current mode (10_state.md R23). -/
def State.x (s : State) (i : RegNum) : Word := s.bankReg s.cpsr.mode.bank i

/-- `x[i] <- v`, in the bank of the current mode (10_state.md R23). -/
def State.setX (s : State) (i : RegNum) (v : Word) : State := s.setBankReg s.cpsr.mode.bank i v

/-- `xu[i]`, in the user bank whatever the mode (10_state.md R24). -/
def State.xu (s : State) (i : RegNum) : Word := s.bankReg .usr i

/-- `xu[i] <- v` (10_state.md R24). -/
def State.setXu (s : State) (i : RegNum) (v : Word) : State := s.setBankReg .usr i v

/-! ### Free values -/

/-- The state after `n` free values have been drawn (00_scope.md R8). -/
def State.drawn (s : State) (n : Nat) : State := { s with draws := s.draws + n }

/-- The k-th free bit to be drawn from here (00_scope.md R8, `any1`). -/
def State.anyBit (s : State) (k : Nat) : Bool := Config.freeBit (s.draws + k)

/-- The k-th free word to be drawn from here (00_scope.md R8, `any32`). -/
def State.anyWord (s : State) (k : Nat) : Word := Config.freeWord (s.draws + k)

/-! ### Status -/

/-- The state with another current status. -/
def State.setCpsr (s : State) (c : Cpsr) : State := { s with cpsr := c }

/-- A status as a saved status (10_state.md R35: "the same fields"). -/
def Cpsr.toPsr (c : Cpsr) : Psr := ⟨c.n, c.z, c.c, c.v, c.i, c.f, c.mode.toBits⟩

/-- `N:Z:C:V:I:F : a[25:2] : M[1:0]`, the 26-bit layout of R15 around an address (10_state.md R28, R31). -/
def psrWord26 (c : Cpsr) (a : Word) : Word :=
  BitVec.ofBool c.n ++ BitVec.ofBool c.z ++ BitVec.ofBool c.c ++ BitVec.ofBool c.v ++ BitVec.ofBool c.i
    ++ BitVec.ofBool c.f ++ a.extractLsb' 2 24 ++ c.mode.toBits.extractLsb' 0 2

/-- `PSRword(P)` (49_status_transfer_and_undefined.md R332): the layout `NZCVxxxx xxxxxxxx xxxxxxxx IFxMMMMM` of 10_state.md
R29, its reserved bits those of `r`. -/
def Psr.toWord (p : Psr) (r : Word) : Word :=
  BitVec.ofBool p.n ++ BitVec.ofBool p.z ++ BitVec.ofBool p.c ++ BitVec.ofBool p.v ++ r.extractLsb' 8 20
    ++ BitVec.ofBool p.i ++ BitVec.ofBool p.f ++ r.extractLsb' 5 1 ++ p.m

/-- The status whose fields stand in a word of that layout (10_state.md R29). -/
def Psr.ofWord (v : Word) : Psr :=
  ⟨v.getLsbD 31, v.getLsbD 30, v.getLsbD 29, v.getLsbD 28, v.getLsbD 7, v.getLsbD 6, v.extractLsb' 0 5⟩

/-- The SPSR of a bank; "user mode has no SPSR" (10_state.md R35). -/
def State.spsrOf (s : State) : Bank → Option Psr
  | .usr => none
  | .fiq => some s.spsrFiq
  | .irq => some s.spsrIrq
  | .svc => some s.spsrSvc
  | .abt => some s.spsrAbt
  | .und => some s.spsrUnd

/-- `SPSR`: the one of the current bank (10_state.md R35). -/
def State.spsr (s : State) : Option Psr := s.spsrOf s.cpsr.mode.bank

/-- The state with the SPSR of a bank written; the user bank has none. -/
def State.setSpsrOf (s : State) (b : Bank) (p : Psr) : State :=
  match b with
  | .usr => s
  | .fiq => { s with spsrFiq := p }
  | .irq => { s with spsrIrq := p }
  | .svc => { s with spsrSvc := p }
  | .abt => { s with spsrAbt := p }
  | .und => { s with spsrUnd := p }

/-- `WritePSR26(v)` (10_state.md R34): the flags always, and I, F, M[1:0] only from a privileged mode. Used in 26-bit
modes only, so M[4:2] stay 000. -/
def Cpsr.writePsr26 (c : Cpsr) (v : Word) : Cpsr :=
  if c.mode.isPrivileged then
    ⟨v.getLsbD 31, v.getLsbD 30, v.getLsbD 29, v.getLsbD 28, v.getLsbD 27, v.getLsbD 26, Mode.of26 (v.extractLsb' 0 2)⟩
  else
    { c with n := v.getLsbD 31, z := v.getLsbD 30, c := v.getLsbD 29, v := v.getLsbD 28 }

/-! ### The program counter -/

/-- Whether an address lies above the 64 MBytes that a 26-bit pc reaches: any of bits 31..26 set (10_state.md R39). -/
def above64M (a : Word) : Bool := a.extractLsb' 26 6 != 0#6

/-- The top of the range of the pc: 0x03FFFFFC in a 26-bit mode, 0xFFFFFFFC in a 32-bit mode (10_state.md R30). -/
def State.pcTop (s : State) : Word := if s.is26 then 0x03FFFFFC#32 else 0xFFFFFFFC#32

/-- Ends an instruction that began in `start` and has come to `s` without writing the pc: the next one is at A + 4, unless
that steps past the top of the range (10_state.md R30). -/
def State.advanceFrom (start s : State) : Result :=
  if start.pc = start.pcTop then .refused .pcWrap else .next { s with pc := start.pc + 4 }

/-- Writes the pc other than by stepping on, which refills the pipeline: on an uncached processor the words stored before are
fetched afresh (20_memory.md R88, 10_state.md R41). -/
def State.jump (s : State) (target : Word) : State :=
  { s with pc := target, storedWords := if s.variant.isUncached then [] else s.storedWords }

/-- `WritePC(v)` (10_state.md R33). -/
def State.writePc (s : State) (v : Word) : State :=
  s.jump (if s.is26 then v &&& 0x03FFFFFC#32 else v &&& 0xFFFFFFFC#32)

/-- `WritePC_PSR(v)`: WritePSR26(v), then the pc (10_state.md R34). -/
def State.writePcPsr (s : State) (v : Word) : State :=
  (s.setCpsr (s.cpsr.writePsr26 v)).jump (v &&& 0x03FFFFFC#32)

/-- `R15_pc()` (10_state.md R31). -/
def State.r15Pc (s : State) : Word := if s.is26 then (s.pc + 8) &&& 0x03FFFFFC#32 else s.pc + 8

/-- R15 as it shows `off` bytes after the executing instruction: with the PSR bits in a 26-bit mode, the address alone in a
32-bit mode (10_state.md R31, R32). -/
def State.r15At (s : State) (off : Word) : Word := if s.is26 then psrWord26 s.cpsr (s.pc + off) else s.pc + off

/-- `R15_all()` (10_state.md R31). -/
def State.r15All (s : State) : Word := s.r15At 8

/-- `R15_stm()` (10_state.md R32). -/
def State.r15Stm (s : State) : Word := s.r15At 12

/-- `StoredR15()` (44_single_data_transfer.md R246): A + `STR_PC_OFFSET`, 8 or 12 (log 7). -/
def State.storedR15 (s : State) : Word := s.r15At (if Config.strPcOffsetIsTwelve then 12 else 8)

/-- `RestoreCPSR()` after `WritePC(v)`, the exception return of a 32-bit mode (10_state.md R39): the SPSR of the current mode
becomes the CPSR. -/
def State.restoreCpsr (s : State) (v : Word) : Result :=
  match s.spsr with
  | none => .refused .spsrInUser
  | some p =>
    match Mode.ofBits p.m with
    | none => .refused .modeIllegal
    | some m =>
      if m.is26 && above64M (s.writePc v).pc then .refused .pcAbove64MIn26bit
      else .next ((s.writePc v).setCpsr ⟨p.n, p.z, p.c, p.v, p.i, p.f, m⟩)

/-- The return forms that write R15 and the status together: `WritePC_PSR(v)` in a 26-bit mode, `WritePC(v); RestoreCPSR()`
in a 32-bit mode (60_exceptions.md R370, 41_data_processing.md R163, R164, 45_block_data_transfer.md R271). -/
def State.returnTo (s : State) (v : Word) : Result :=
  if s.is26 then .next (s.writePcPsr v) else s.restoreCpsr v

/-! ### Exceptions -/

/-- The exceptions of 60_exceptions.md R351. -/
inductive Exc where
  | reset | undefinedInstruction | softwareInterrupt | prefetchAbort | dataAbort | irq | fiq
deriving DecidableEq, Repr

/-- The vectors of 60_exceptions.md R352 (92_eei_decisions.md D8). -/
def Exc.vector : Exc → Word
  | .reset => 0x00#32
  | .undefinedInstruction => 0x04#32
  | .softwareInterrupt => 0x08#32
  | .prefetchAbort => 0x0C#32
  | .dataAbort => 0x10#32
  | .irq => 0x18#32
  | .fiq => 0x1C#32

/-- The mode an exception enters on `pre6` (60_exceptions.md R352). -/
def Exc.modePre6 : Exc → Mode
  | .reset | .undefinedInstruction | .softwareInterrupt | .prefetchAbort | .dataAbort => .svc26
  | .irq => .irq26
  | .fiq => .fiq26

/-- The mode an exception enters on `arm6plus` (60_exceptions.md R352, `EXC32`: 92_eei_decisions.md D9). -/
def Exc.modeArm6 : Exc → Mode
  | .reset | .softwareInterrupt => .svc32
  | .undefinedInstruction => .und32
  | .prefetchAbort | .dataAbort => .abt32
  | .irq => .irq32
  | .fiq => .fiq32

/-- The mode an exception enters (60_exceptions.md R352). -/
def Exc.mode (k : Exc) (v : Variant) : Mode := if v.isArm6Plus then k.modeArm6 else k.modePre6

/-- "if kind in {Reset, FIQ} then F <- 1" (60_exceptions.md R353). -/
def Exc.setsF : Exc → Bool
  | .reset | .fiq => true
  | .undefinedInstruction | .softwareInterrupt | .prefetchAbort | .dataAbort | .irq => false

/-- `TakeException(kind, ret)` (60_exceptions.md R353). On `pre6` the old status goes with the address into R14 of the mode
entered; on `arm6plus` R14 receives the address and the SPSR the status. DESIGN CHOICE: an address past the top of a 26-bit mode
(0x04000000) is taken modulo 64 MBytes on `pre6` only, where R353 writes `ret[25:2]`; on `arm6plus` R14 receives it whole (R354, log 30). -/
def State.takeException (s : State) (k : Exc) (ret : Word) : State :=
  let old := s.cpsr
  let m := k.mode s.variant
  let entered := s.setCpsr { old with i := true, f := old.f || k.setsF, mode := m }
  let saved :=
    if s.variant.isArm6Plus then (entered.setSpsrOf m.bank old.toPsr).setBankReg m.bank 14 ret
    else entered.setBankReg m.bank 14 (psrWord26 old ret)
  saved.jump k.vector

/-- `raise DataAbort(addr)` inside the transfer at A: the address is recorded nowhere (60_exceptions.md R354, R357). `s` is the
state with what the instruction has written before the abort, its pc still A. -/
def State.dataAbort (s : State) : Result := .next (s.takeException .dataAbort (s.pc + 8))

/-- `raise UndefinedInstruction` by the instruction at A (49_status_transfer_and_undefined.md R340). -/
def State.undefinedTrap (s : State) : Result := .next (s.takeException .undefinedInstruction (s.pc + 4))

/-- The reset input during a run (70_reset_and_hazards.md R400): SVC mode, I = F = 1, pc = 0; R14_SVC, SPSR_svc (on `arm6plus`)
and the flags are left unspecified, so free values (log 12); the coprocessors take their own reset; the rest is unchanged. -/
def State.resetInput (s : State) : State :=
  let entered := (s.setCpsr ⟨s.anyBit 0, s.anyBit 1, s.anyBit 2, s.anyBit 3, true, true, Exc.reset.mode s.variant⟩).setPhys
    .r14Svc (s.anyWord 0)
  let saved := if s.variant.isArm6Plus then entered.setSpsrOf .svc (Psr.ofWord (s.anyWord 1)) else entered
  { saved.jump Exc.reset.vector with
    lock := false
    coprocs := Vector.ofFn fun p : Fin 16 => (s.coprocs[p]).map (Config.coprocReset (BitVec.ofFin p))
    draws := s.draws + 4 }

/-! ### Memory -/

/-- What a byte that nothing has written reads as: 0 (log 4). -/
def unlistedByte : Byte := 0#8

/-- The byte at an address. -/
def readMem : Memory → Nat → Byte
  | [], _ => unlistedByte
  | (a', b) :: m, a => if a' = a then b else readMem m a

/-- Memory with one byte written, in canonical form again. -/
def writeMem : Memory → Nat → Byte → Memory
  | [], a, b => if b = unlistedByte then [] else [(a, b)]
  | (a', b') :: m, a, b =>
    if a < a' then (if b = unlistedByte then (a', b') :: m else (a, b) :: (a', b') :: m)
    else if a = a' then (if b = unlistedByte then m else (a, b) :: m)
    else (a', b') :: writeMem m a b

/-- The cells from address `lo` on are canonical: addresses strictly rising, below 2^32, and no byte that an unlisted address
reads as. -/
def memWfFrom : Nat → Memory → Bool
  | _, [] => true
  | lo, (a, b) :: m => decide (lo ≤ a) && decide (a < 2 ^ 32) && (b != unlistedByte) && memWfFrom (a + 1) m

/-- The canonical form of memory. -/
def Memory.wf (m : Memory) : Bool := memWfFrom 0 m

/-- The byte at a word address plus `k`, modulo 2^32 (20_memory.md R73). -/
def byteAddr (a : Word) (k : Nat) : Nat := (a + BitVec.ofNat 32 k).toNat

/-- The word at an address (20_memory.md R73). -/
def readMemWord (m : Memory) (a : Word) : Word :=
  wordOfBytes (readMem m (byteAddr a 0)) (readMem m (byteAddr a 1)) (readMem m (byteAddr a 2)) (readMem m (byteAddr a 3))

/-- Memory with a word written (20_memory.md R73). -/
def writeMemWord (m : Memory) (a : Word) (v : Word) : Memory :=
  writeMem (writeMem (writeMem (writeMem m (byteAddr a 0) (byteOfWord v 0)) (byteAddr a 1) (byteOfWord v 1))
    (byteAddr a 2) (byteOfWord v 2)) (byteAddr a 3) (byteOfWord v 3)

/-- The byte a program finds at an address. -/
def State.byteAt (s : State) (a : Nat) : Byte := readMem s.mem a

/-- The word a program finds at an address. -/
def State.wordAt (s : State) (a : Word) : Word := readMemWord s.mem a

/-- Adds a word address to the rising list of stored words. -/
def insertStored : List Nat → Nat → List Nat
  | [], a => [a]
  | a' :: l, a => if a < a' then a :: a' :: l else if a = a' then a' :: l else a' :: insertStored l a

/-- The address of the word that holds a byte. -/
def wordBase (a : Word) : Nat := (a &&& 0xFFFFFFFC#32).toNat

/-- `MemWrite(a, 4, v)` once the memory manager has let it through (20_memory.md R76); the word counts as stored by the program
(R88). -/
def State.storeWord (s : State) (a v : Word) : State :=
  { s with mem := writeMemWord s.mem a v, storedWords := insertStored s.storedWords (wordBase a) }

/-- `MemWrite(a, 1, v)` once the memory manager has let it through (20_memory.md R76, R88). -/
def State.storeByte (s : State) (a : Word) (v : Byte) : State :=
  { s with mem := writeMem s.mem a.toNat v, storedWords := insertStored s.storedWords (wordBase a) }

/-- A sequence of word stores, first to last. -/
def State.storeWords (s : State) : List (Word × Word) → State
  | [] => s
  | (a, v) :: l => (s.storeWord a v).storeWords l

/-! ### The memory manager -/

/-- Whether a rule aborts an access (20_memory.md R79). -/
def ruleHits (r : AbortRule) (a : Word) (size : AccessSize) (dir : AccessDir) (priv : Priv) : Bool :=
  decide (r.lo ≤ a.toNat) && decide (a.toNat ≤ r.hi) && r.size == size && r.dir == dir && r.priv == priv

/-- Whether the memory manager aborts an access (20_memory.md R75, R76, R79). -/
def State.aborts (s : State) (a : Word) (size : AccessSize) (dir : AccessDir) (priv : Priv) : Bool :=
  s.memMap.any fun r => ruleHits r a size dir priv

/-- The privilege of the mode, which an ordinary access presents (20_memory.md R75). -/
def State.priv (s : State) : Priv := if s.isPrivileged then .privileged else .user

/-- Whether a data address is beyond the 26 bits of `pre6` (20_memory.md R71, 92_eei_decisions.md D4). -/
def State.outOfRange (s : State) (a : Word) : Bool := !s.variant.isArm6Plus && above64M a

/-- Whether an address is a multiple of 4 (20_memory.md R74). -/
def isAligned (a : Word) : Bool := a.extractLsb' 0 2 == 0#2

/-- The addresses of `n` words from `start` on, 4 apart, modulo 2^32 (20_memory.md R77). -/
def wordAddrs (start : Word) (n : Nat) : List Word := (List.range n).map fun k => start + 4#32 * BitVec.ofNat 32 k

/-- The index of the first of some word accesses that the memory manager aborts (60_exceptions.md R357). -/
def State.firstAbort (s : State) (addrs : List Word) (dir : AccessDir) (priv : Priv) : Option Nat :=
  addrs.findIdx? fun a => s.aborts a .word dir priv

/-- The addresses that a sequence of word accesses comes to: it ends with the first that aborts (60_exceptions.md R357). -/
def State.reached (s : State) (addrs : List Word) (dir : AccessDir) (priv : Priv) : List Word :=
  match s.firstAbort addrs dir priv with
  | none => addrs
  | some j => addrs.take (j + 1)

/-- The write-back of a base register, when there is one (44_single_data_transfer.md R232). -/
def State.writeBackIf (s : State) (writeback : Bool) (rn : RegNum) (v : Word) : State :=
  if writeback then s.setX rn v else s

/-- The base register after a data abort: written back only if `ABORT_BASE` is `updated` (44_single_data_transfer.md R248,
log 8). -/
def State.abortBase (s : State) (writeback : Bool) (rn : RegNum) (v : Word) : State :=
  if writeback && Config.abortBaseUpdated then s.setX rn v else s

end Sys2Proof.Machine
end

