-- ==== Sys2Proof/Machine/Flags.lean ====
section
/-! DEFINITION. The condition of an instruction (40_condition_codes.md R140, R141), the adder and the flag computations of data
processing (41_data_processing.md R159, R161) and of the multiplies (43_multiply.md R213, R220). -/

namespace Sys2Proof.Machine

/-- `ConditionPassed(cond)` on the flags as they are before the instruction (40_condition_codes.md R140; LS by R142). -/
def condPassed (p : Cpsr) : Cond → Bool
  | .eq => p.z
  | .ne => !p.z
  | .cs => p.c
  | .cc => !p.c
  | .mi => p.n
  | .pl => !p.n
  | .vs => p.v
  | .vc => !p.v
  | .hi => p.c && !p.z
  | .ls => !p.c || p.z
  | .ge => p.n == p.v
  | .lt => p.n != p.v
  | .gt => p.n == p.v && !p.z
  | .le => p.n != p.v || p.z
  | .al => true
  | .nv => false

/-- Conditional execution (40_condition_codes.md R141): an instruction whose condition fails does nothing but step on. -/
def State.whenPassed (s : State) (c : Cond) (body : Result) : Result :=
  if condPassed s.cpsr c then body else s.advanceFrom s

/-- A 32-bit result with the carry and overflow of the ALU. -/
structure AluOut where
  res : Word
  c : Bool
  v : Bool
deriving DecidableEq, Repr

/-- `AddWithCarry(p, q, cin)` (41_data_processing.md R159): the exact unsigned and signed sums, then narrowed. -/
def addWithCarry (p q : Word) (cin : Bool) : AluOut :=
  let u : Nat := p.toNat + q.toNat + cin.toNat
  let t : Int := p.toInt + q.toInt + cin.toNat
  { res := BitVec.ofNat 32 u
    c := decide (2 ^ 32 ≤ u)
    v := decide (t < -2 ^ 31) || decide (2 ^ 31 - 1 < t) }

/-- Flags of the logical class (41_data_processing.md R161): N and Z on the result, C from the shifter, V unchanged. -/
def Cpsr.setLogical (p : Cpsr) (res : Word) (shC : Bool) : Cpsr :=
  { p with n := res.getLsbD 31, z := res == 0#32, c := shC }

/-- Flags of the arithmetic class (41_data_processing.md R161): N and Z on the result, C and V from the ALU. -/
def Cpsr.setArith (p : Cpsr) (o : AluOut) : Cpsr :=
  { p with n := o.res.getLsbD 31, z := o.res == 0#32, c := o.c, v := o.v }

/-- Flags of MUL and MLA with S (43_multiply.md R213): C is undefined, so a free bit; V is unaffected. -/
def State.setMulFlags (s : State) (res : Word) : State :=
  (s.setCpsr { s.cpsr with n := res.getLsbD 31, z := res == 0#32, c := s.anyBit 0 }).drawn 1

/-- Flags of the long multiplies with S (43_multiply.md R220): N and Z on the 64-bit result; C and V are undefined, so free
bits. -/
def State.setMullFlags (s : State) (res : BitVec 64) : State :=
  (s.setCpsr { s.cpsr with n := res.getLsbD 63, z := res == 0#64, c := s.anyBit 0, v := s.anyBit 1 }).drawn 2

end Sys2Proof.Machine
end

