-- ==== Sys2Proof/Machine/Operands.lean ====
section
/-! DEFINITION. The operands: the shifter (41_data_processing.md R153 to R158), R15 as an operand (R152), the offsets and addresses
of the transfers (44_single_data_transfer.md R231, R232; 45_block_data_transfer.md R261, R262; 47_coprocessor.md R299). -/

namespace Sys2Proof.Machine

/-- An operand after the shifter, with the shifter's carry-out. -/
structure Shifted where
  val : Word
  c : Bool
deriving DecidableEq, Repr

/-- LSL by `n`, 0 to 255 (41_data_processing.md R153). -/
def shiftLsl (m : Word) (n : Nat) (c : Bool) : Shifted :=
  if n = 0 then ⟨m, c⟩
  else if n ≤ 31 then ⟨m <<< n, m.getLsbD (32 - n)⟩
  else if n = 32 then ⟨0#32, m.getLsbD 0⟩
  else ⟨0#32, false⟩

/-- LSR by `n`, 0 to 255 (41_data_processing.md R154). -/
def shiftLsr (m : Word) (n : Nat) (c : Bool) : Shifted :=
  if n = 0 then ⟨m, c⟩
  else if n ≤ 31 then ⟨m >>> n, m.getLsbD (n - 1)⟩
  else if n = 32 then ⟨0#32, m.getLsbD 31⟩
  else ⟨0#32, false⟩

/-- ASR by `n`, 0 to 255 (41_data_processing.md R155). -/
def shiftAsr (m : Word) (n : Nat) (c : Bool) : Shifted :=
  if n = 0 then ⟨m, c⟩
  else if n ≤ 31 then ⟨m.sshiftRight n, m.getLsbD (n - 1)⟩
  else ⟨if m.getLsbD 31 then 0xFFFFFFFF#32 else 0#32, m.getLsbD 31⟩

/-- ROR by `n`, 0 to 255 (41_data_processing.md R156, the register rows; the immediate rows 1 to 31 agree with them). -/
def shiftRor (m : Word) (n : Nat) (c : Bool) : Shifted :=
  if n = 0 then ⟨m, c⟩
  else if n % 32 = 0 then ⟨m, m.getLsbD 31⟩
  else ⟨m.rotateRight (n % 32), m.getLsbD (n % 32 - 1)⟩

/-- RRX: the carry enters at bit 31 and bit 0 leaves (41_data_processing.md R156). -/
def shiftRrx (m : Word) (c : Bool) : Shifted := ⟨BitVec.ofBool c ++ m.extractLsb' 1 31, m.getLsbD 0⟩

/-- A shift by an amount taken from a register, its bottom byte (41_data_processing.md R157). -/
def shiftByRegister (kind : ShiftKind) (m : Word) (n : Nat) (c : Bool) : Shifted :=
  match kind with
  | .lsl => shiftLsl m n c
  | .lsr => shiftLsr m n c
  | .asr => shiftAsr m n c
  | .ror => shiftRor m n c

/-- A shift by the 5-bit field: a zero field means LSR #32, ASR #32 and RRX (41_data_processing.md R153 to R156). -/
def shiftByImmediate (kind : ShiftKind) (m : Word) (amount : BitVec 5) (c : Bool) : Shifted :=
  match kind with
  | .lsl => shiftLsl m amount.toNat c
  | .lsr => shiftLsr m (if amount = 0#5 then 32 else amount.toNat) c
  | .asr => shiftAsr m (if amount = 0#5 then 32 else amount.toNat) c
  | .ror => if amount = 0#5 then shiftRrx m c else shiftRor m amount.toNat c

/-- The rotated constant `#b, ROR #2r` (30_encoding.md R120). -/
def rotatedImm (r : BitVec 4) (b : BitVec 8) : Word := (b.zeroExtend 32).rotateRight (2 * r.toNat)

/-- Rn of data processing and the base of a transfer: R15 reads as `R15_pc()` (41_data_processing.md R152,
44_single_data_transfer.md R247). -/
def State.readRn (s : State) (rn : RegNum) : Word := if rn = 15#4 then s.r15Pc else s.x rn

/-- Rm of data processing: R15 reads as `R15_all()` (41_data_processing.md R152). -/
def State.readRm (s : State) (rm : RegNum) : Word := if rm = 15#4 then s.r15All else s.x rm

/-- `ShifterOperand(w)`: Op2 and the shifter's carry-out (41_data_processing.md R151, R153 to R158). -/
def State.shifterOperand (s : State) : Op2 → Shifted
  | .imm r b => ⟨rotatedImm r b, if r = 0#4 then s.cpsr.c else (rotatedImm r b).getLsbD 31⟩
  | .shiftImm rm kind amount => shiftByImmediate kind (s.readRm rm) amount s.cpsr.c
  | .shiftReg rm kind rc => shiftByRegister kind (s.readRm rm) ((s.x rc).toNat % 256) s.cpsr.c

/-- Whether Rm or Rc of a register-specified shift is R15 (41_data_processing.md R152). -/
def op2UsesR15 : Op2 → Bool
  | .imm .. | .shiftImm .. => false
  | .shiftReg rm _ rc => rm == 15#4 || rc == 15#4

/-- Whether Op2 takes its shift amount from a register. -/
def op2ByRegister : Op2 → Bool
  | .imm .. | .shiftImm .. => false
  | .shiftReg .. => true

/-- The offset of a single data transfer; the shifter's carry-out is discarded (44_single_data_transfer.md R231). -/
def State.offsetValue (s : State) : Offset → Word
  | .imm o => o.zeroExtend 32
  | .shifted rm kind amount => (shiftByImmediate kind (s.x rm) amount s.cpsr.c).val

/-- The base plus or minus an offset, the U bit (44_single_data_transfer.md R232). -/
def indexed (up : Bool) (base off : Word) : Word := if up then base + off else base - off

/-- `writeback` (44_single_data_transfer.md R232): always when post-indexed. -/
def writesBack : Indexing → Bool
  | .pre => false
  | .preWriteBack | .post => true

/-- Whether the address is the indexed base (P = 1) rather than the base (44_single_data_transfer.md R232). -/
def isPreIndexed : Indexing → Bool
  | .pre | .preWriteBack => true
  | .post => false

/-- `addr` (44_single_data_transfer.md R232). -/
def selectAddr (ix : Indexing) (base idx : Word) : Word := if isPreIndexed ix then idx else base

/-- The four address progressions of the block transfers (45_block_data_transfer.md R262). -/
inductive BlockMode where
  | ia | ib | da | db
deriving DecidableEq, Repr

/-- The registers of a list in ascending order (45_block_data_transfer.md R261). -/
def listRegs (list : BitVec 16) : List RegNum :=
  ((List.range 16).filter fun i => list.getLsbD i).map fun i => BitVec.ofNat 4 i

/-- `start`: where the lowest-numbered register of `n` is transferred (45_block_data_transfer.md R262). -/
def blockStart (m : BlockMode) (base : Word) (n : Nat) : Word :=
  match m with
  | .ia => base
  | .ib => base + 4#32
  | .da => base - 4#32 * BitVec.ofNat 32 n + 4#32
  | .db => base - 4#32 * BitVec.ofNat 32 n

/-- `wb`: the written-back base (45_block_data_transfer.md R262). -/
def blockWriteBack (m : BlockMode) (base : Word) (n : Nat) : Word :=
  match m with
  | .ia | .ib => base + 4#32 * BitVec.ofNat 32 n
  | .da | .db => base - 4#32 * BitVec.ofNat 32 n

end Sys2Proof.Machine
end

