-- ==== Sys2Proof/Machine/Block.lean ====
section
/-! DEFINITION. The block data transfers (45_block_data_transfer.md R260 to R280). -/

namespace Sys2Proof.Machine

/-- Whether the transferred registers are those of the user bank (45_block_data_transfer.md R270): S is set, and the instruction
is STM or R15 is not in the list. -/
def usesUserBank (load hat : Bool) (list : BitVec 16) : Bool := hat && (!load || !list.getLsbD 15)

/-- The restrictions of 45_block_data_transfer.md R278, in its order. -/
def State.blockRefusal (s : State) (load hat wb : Bool) (rn : RegNum) (list : BitVec 16) : Option Refusal :=
  if rn = 15#4 then some .bdtBaseR15
  else if load ∧ wb ∧ list.getLsbD rn.toNat then some .ldmBaseInListWriteback
  else if usesUserBank load hat list ∧ s.isPrivileged = false then some .bdtSInUser
  else if load ∧ hat ∧ list.getLsbD 15 ∧ s.cpsr.mode = .usr32 then some .spsrInUser
  else if list = 0#16 then some .bdtEmptyList
  else if usesUserBank load hat list ∧ wb then some .bdtUserBankWriteback
  else none

/-- Writes a sequence of registers, in the user bank or in the bank of the current mode; R15 is left to the end of the
instruction (45_block_data_transfer.md R264). -/
def State.writeRegs (s : State) (userBank : Bool) : List (RegNum × Word) → State
  | [] => s
  | (i, v) :: l =>
    (if i = 15#4 then s else if userBank then s.setXu i v else s.setX i v).writeRegs userBank l

/-- The checks that come before the accesses of a block transfer: the restrictions (45_block_data_transfer.md R278), alignment
(20_memory.md R74) and the width of every address (R71, log 16); then `access` at the addresses. -/
def State.checkedBlock (s : State) (m : BlockMode) (load hat wb : Bool) (rn : RegNum) (list : BitVec 16)
    (access : List Word → Result) : Result :=
  match s.blockRefusal load hat wb rn list with
  | some r => .refused r
  | none =>
    let n := (listRegs list).length
    let start := blockStart m (s.x rn) n
    if !isAligned start then .refused .unalignedWord
    else if (wordAddrs start n).any s.outOfRange then .fault .addressAbove64M
    else access (wordAddrs start n)

/-- The written-back value of a block transfer (45_block_data_transfer.md R262). -/
def State.blockWb (s : State) (m : BlockMode) (rn : RegNum) (list : BitVec 16) : Word :=
  blockWriteBack m (s.x rn) (listRegs list).length

/-- LDM past its checks, no access aborted (45_block_data_transfer.md R264, R271): write-back, the listed registers, then R15 from
the last word. -/
def State.loadedBlock (s : State) (hat wb : Bool) (rn : RegNum) (list : BitVec 16) (wbv : Word) (vals : List Word) :
    Result :=
  let t := (s.writeBackIf wb rn wbv).writeRegs (usesUserBank true hat list) ((listRegs list).zip vals)
  if list.getLsbD 15 then
    (if hat then t.returnTo (vals.getLastD 0#32) else .next (t.writePc (vals.getLastD 0#32)))
  else s.advanceFrom t

/-- LDM when an access aborts (45_block_data_transfer.md R279): R15 and the status stay, every other listed register is free, the
base follows `ABORT_BASE` unless it is listed. -/
def State.abortedLoadBlock (s : State) (hat wb : Bool) (rn : RegNum) (list : BitVec 16) (wbv : Word) : Result :=
  let regs := listRegs list
  (((s.abortBase wb rn wbv).writeRegs (usesUserBank true hat list)
    (regs.zip ((List.range regs.length).map s.anyWord))).drawn regs.length).dataAbort

/-- The LDM frame (45_block_data_transfer.md R264). -/
def loadBlock (m : BlockMode) (c : Cond) (hat wb : Bool) (rn : RegNum) (list : BitVec 16) (s : State) : Result :=
  s.whenPassed c <| s.checkedBlock m true hat wb rn list fun addrs =>
    match s.firstAbort addrs .read s.priv with
    | some _ => s.abortedLoadBlock hat wb rn list (s.blockWb m rn list)
    | none => s.loadedBlock hat wb rn list (s.blockWb m rn list) (addrs.map s.wordAt)

/-- Whether the stored base is undefined: write-back, the base in the list and not first, the current bank (45_block_data_transfer.md
R265, R276). -/
def storesFreeBase (hat wb : Bool) (rn : RegNum) (list : BitVec 16) : Bool :=
  wb && !hat && list.getLsbD rn.toNat && (listRegs list).head? != some rn

/-- The value that STM stores for register i (45_block_data_transfer.md R265, R270, R276, R277). -/
def State.storedReg (s : State) (hat wb : Bool) (rn : RegNum) (list : BitVec 16) (i : RegNum) : Word :=
  if i = 15#4 then s.r15Stm
  else if i = rn ∧ storesFreeBase hat wb rn list then s.anyWord 0
  else if hat then s.xu i else s.x i

/-- The addresses and values of an STM, in ascending order (45_block_data_transfer.md R261, R265). -/
def State.blockStores (s : State) (hat wb : Bool) (rn : RegNum) (list : BitVec 16) (addrs : List Word) : List (Word × Word) :=
  addrs.zip ((listRegs list).map (s.storedReg hat wb rn list))

/-- The state after some of the words of an STM are stored. -/
def State.blockStored (s : State) (hat wb : Bool) (rn : RegNum) (list : BitVec 16) (stores : List (Word × Word)) : State :=
  (s.storeWords stores).drawn (if storesFreeBase hat wb rn list then 1 else 0)

/-- The STM frame (45_block_data_transfer.md R265); on an abort the words before it are written (R279). -/
def storeBlock (m : BlockMode) (c : Cond) (hat wb : Bool) (rn : RegNum) (list : BitVec 16) (s : State) : Result :=
  s.whenPassed c <| s.checkedBlock m false hat wb rn list fun addrs =>
    let stores := s.blockStores hat wb rn list addrs
    match s.firstAbort addrs .write s.priv with
    | some j => ((s.blockStored hat wb rn list (stores.take j)).abortBase wb rn (s.blockWb m rn list)).dataAbort
    | none => s.advanceFrom ((s.blockStored hat wb rn list stores).writeBackIf wb rn (s.blockWb m rn list))

/-- LDMIA (45_block_data_transfer.md R266). -/
def execLdmia (c : Cond) (hat wb : Bool) (rn : RegNum) (list : BitVec 16) (s : State) : Result :=
  loadBlock .ia c hat wb rn list s

/-- LDMIB (45_block_data_transfer.md R267). -/
def execLdmib (c : Cond) (hat wb : Bool) (rn : RegNum) (list : BitVec 16) (s : State) : Result :=
  loadBlock .ib c hat wb rn list s

/-- LDMDA (45_block_data_transfer.md R268). -/
def execLdmda (c : Cond) (hat wb : Bool) (rn : RegNum) (list : BitVec 16) (s : State) : Result :=
  loadBlock .da c hat wb rn list s

/-- LDMDB (45_block_data_transfer.md R269). -/
def execLdmdb (c : Cond) (hat wb : Bool) (rn : RegNum) (list : BitVec 16) (s : State) : Result :=
  loadBlock .db c hat wb rn list s

/-- STMIA (45_block_data_transfer.md R272). -/
def execStmia (c : Cond) (hat wb : Bool) (rn : RegNum) (list : BitVec 16) (s : State) : Result :=
  storeBlock .ia c hat wb rn list s

/-- STMIB (45_block_data_transfer.md R273). -/
def execStmib (c : Cond) (hat wb : Bool) (rn : RegNum) (list : BitVec 16) (s : State) : Result :=
  storeBlock .ib c hat wb rn list s

/-- STMDA (45_block_data_transfer.md R274). -/
def execStmda (c : Cond) (hat wb : Bool) (rn : RegNum) (list : BitVec 16) (s : State) : Result :=
  storeBlock .da c hat wb rn list s

/-- STMDB (45_block_data_transfer.md R275). -/
def execStmdb (c : Cond) (hat wb : Bool) (rn : RegNum) (list : BitVec 16) (s : State) : Result :=
  storeBlock .db c hat wb rn list s

end Sys2Proof.Machine
end

