-- ==== Sys2Proof/Machine/Branch.lean ====
section
/-! DEFINITION. The branches (42_branch.md R200 to R203). -/

namespace Sys2Proof.Machine

/-- The destination: A + 8 + 4 * offset modulo 2^32, the top 6 bits cleared in a 26-bit mode (42_branch.md R200, R201). -/
def State.branchTarget (s : State) (o : BitVec 24) : Word :=
  let t := s.pc + 8#32 + 4#32 * o.signExtend 32
  if s.is26 then t &&& 0x03FFFFFF#32 else t

/-- B (42_branch.md R201). -/
def execB (c : Cond) (o : BitVec 24) (s : State) : Result :=
  s.whenPassed c (.next (s.jump (s.branchTarget o)))

/-- BL: R14 receives the address of the next instruction, with the PSR bits in a 26-bit mode (42_branch.md R202). -/
def execBl (c : Cond) (o : BitVec 24) (s : State) : Result :=
  s.whenPassed c (.next ((s.setX 14#4 (s.r15At 4#32)).jump (s.branchTarget o)))

end Sys2Proof.Machine
end

