-- ==== Sys2Proof/Machine/Coprocessor.lean ====
section
/-! DEFINITION. The coprocessor instructions, the ARM's side of them (47_coprocessor.md R295 to R304). -/

namespace Sys2Proof.Machine

/-- Coprocessor p when it is present and responds to the word; none leads to the undefined-instruction trap
(47_coprocessor.md R296, R297). -/
def State.responder (s : State) (p : RegNum) (w : Word) : Option Coproc :=
  match s.coprocs[p.toNat]'p.isLt with
  | none => none
  | some c => if c.accepts.any fun a => w &&& a.mask == a.value then some c else none

/-- The state with the state of a present coprocessor replaced. -/
def State.setCoproc (s : State) (p : RegNum) (c : Coproc) : State :=
  { s with coprocs := s.coprocs.set p.toNat (some c) p.isLt }

/-- A coprocessor instruction: the trap when there is no response, before any other effect (47_coprocessor.md R297). -/
def State.withResponder (s : State) (p : RegNum) (w : Word) (body : Coproc → Result) : Result :=
  match s.responder p w with
  | none => s.undefinedTrap
  | some c => body c

/-- CDP (47_coprocessor.md R298). -/
def execCdp (c : Cond) (o : BitVec 4) (crn crd p : RegNum) (q : BitVec 3) (crm : RegNum) (s : State) : Result :=
  let w := encode (.cdp c o crn crd p q crm)
  s.whenPassed c <| s.withResponder p w fun st => s.advanceFrom (s.setCoproc p (Config.coprocCdp p w st))

/-- `idx` of LDC and STC: the base plus or minus 4 times the 8-bit offset (47_coprocessor.md R299, 30_encoding.md R123). -/
def State.coprocIdx (s : State) (up : Bool) (rn : RegNum) (o : BitVec 8) : Word :=
  indexed up (s.readRn rn) (4#32 * o.zeroExtend 32)

/-- `addr` of LDC and STC (47_coprocessor.md R299). -/
def State.coprocAddr (s : State) (ix : Indexing) (up : Bool) (rn : RegNum) (o : BitVec 8) : Word :=
  selectAddr ix (s.readRn rn) (s.coprocIdx up rn o)

/-- The number of words of an LDC or STC, at least 1 (47_coprocessor.md R296). -/
def coprocCount (p : RegNum) (w : Word) (st : Coproc) : Nat := Config.coprocMoreWords p w st + 1

/-- The checks of LDC and STC (47_coprocessor.md R299), then `access` at the addresses of the words. The accesses are made one after
another (R300, R301): an address beyond the data address width stops the transfer only when the transfer comes to it, so not past an
abort (20_memory.md R71, log 16). -/
def State.checkedCoproc (s : State) (ix : Indexing) (up : Bool) (rn : RegNum) (o : BitVec 8) (n : Nat) (dir : AccessDir)
    (access : List Word → Result) : Result :=
  let addr := s.coprocAddr ix up rn o
  if !isAligned addr then .refused .unalignedWord
  else if rn = 15#4 ∧ writesBack ix then .refused .ldcWritebackR15
  else if (s.reached (wordAddrs addr n) dir s.priv).any s.outOfRange then .fault .addressAbove64M
  else access (wordAddrs addr n)

/-- LDC (47_coprocessor.md R300): on an abort the coprocessor is unchanged and the base follows `ABORT_BASE`. -/
def execLdc (c : Cond) (ix : Indexing) (up long : Bool) (rn crd p : RegNum) (o : BitVec 8) (s : State) : Result :=
  let w := encode (.ldc c ix up long rn crd p o)
  s.whenPassed c <| s.withResponder p w fun st => s.checkedCoproc ix up rn o (coprocCount p w st) .read fun addrs =>
    let idx := s.coprocIdx up rn o
    match s.firstAbort addrs .read s.priv with
    | some _ => (s.abortBase (writesBack ix) rn idx).dataAbort
    | none =>
      s.advanceFrom ((s.writeBackIf (writesBack ix) rn idx).setCoproc p
        (Config.coprocLdc p w (addrs.map s.wordAt) st))

/-- The addresses and words of an STC (47_coprocessor.md R301). -/
def coprocStores (p : RegNum) (w : Word) (st : Coproc) (addrs : List Word) : List (Word × Word) :=
  addrs.zip ((List.range addrs.length).map (Config.coprocStcWord p w st))

/-- STC (47_coprocessor.md R301): on an abort the words below it have been written. -/
def execStc (c : Cond) (ix : Indexing) (up long : Bool) (rn crd p : RegNum) (o : BitVec 8) (s : State) : Result :=
  let w := encode (.stc c ix up long rn crd p o)
  s.whenPassed c <| s.withResponder p w fun st => s.checkedCoproc ix up rn o (coprocCount p w st) .write fun addrs =>
    let idx := s.coprocIdx up rn o
    let stores := coprocStores p w st addrs
    match s.firstAbort addrs .write s.priv with
    | some j => ((s.storeWords (stores.take j)).abortBase (writesBack ix) rn idx).dataAbort
    | none =>
      s.advanceFrom (((s.storeWords stores).writeBackIf (writesBack ix) rn idx).setCoproc p
        (Config.coprocStcState p w st))

/-- MCR (47_coprocessor.md R303). -/
def execMcr (c : Cond) (o : BitVec 3) (crn rd p : RegNum) (q : BitVec 3) (crm : RegNum) (s : State) : Result :=
  let w := encode (.mcr c o crn rd p q crm)
  s.whenPassed c <|
    if rd = 15#4 then .refused .mcrR15
    else s.withResponder p w fun st => s.advanceFrom (s.setCoproc p (Config.coprocMcr p w (s.x rd) st))

/-- MRC: with Rd = R15 the top 4 bits set the flags (47_coprocessor.md R304). -/
def execMrc (c : Cond) (o : BitVec 3) (crn rd p : RegNum) (q : BitVec 3) (crm : RegNum) (s : State) : Result :=
  let w := encode (.mrc c o crn rd p q crm)
  s.whenPassed c <| s.withResponder p w fun st =>
    let v := Config.coprocMrcWord p w st
    let t := s.setCoproc p (Config.coprocMrcState p w st)
    s.advanceFrom <|
      if rd = 15#4 then
        t.setCpsr { s.cpsr with n := v.getLsbD 31, z := v.getLsbD 30, c := v.getLsbD 29, v := v.getLsbD 28 }
      else t.setX rd v

end Sys2Proof.Machine
end

