-- ==== Sys2Proof/Machine/DataProc.lean ====
section
/-! DEFINITION. Data processing (41_data_processing.md R150 to R191): the sixteen instructions and the four P forms, over the common
frame of R151. -/

namespace Sys2Proof.Machine

/-! ### The common frame -/

/-- Whether R15 is used as Rn, Rm or Rc in a register-specified-shift form (41_data_processing.md R152). -/
def r15InRegisterShift (rn : RegNum) (op2 : Op2) : Bool := op2ByRegister op2 && (rn == 15#4 || op2UsesR15 op2)

/-- Writes the result of an instruction that has a destination: `WriteR15` for R15 (41_data_processing.md R163, R164), otherwise
`x[dddd]` and, with S, the status `p` (R151, R162). -/
def State.writeResult (s : State) (sf : Bool) (rd : RegNum) (res : Word) (p : Cpsr) : Result :=
  if rd = 15#4 then (if sf then s.returnTo res else .next (s.writePc res))
  else s.advanceFrom (if sf then (s.setX rd res).setCpsr p else s.setX rd res)

/-- An instruction of the logical class with two operands and a destination (41_data_processing.md R151, R161). -/
def logicalOp (f : Word → Word → Word) (c : Cond) (sf : Bool) (rd rn : RegNum) (op2 : Op2) (s : State) : Result :=
  s.whenPassed c <|
    if r15InRegisterShift rn op2 then .refused .r15WithRegisterShift
    else
      let sh := s.shifterOperand op2
      let res := f (s.readRn rn) sh.val
      s.writeResult sf rd res (s.cpsr.setLogical res sh.c)

/-- An instruction of the arithmetic class with a destination (41_data_processing.md R151, R161). -/
def arithOp (f : Word → Word → Bool → AluOut) (c : Cond) (sf : Bool) (rd rn : RegNum) (op2 : Op2) (s : State) : Result :=
  s.whenPassed c <|
    if r15InRegisterShift rn op2 then .refused .r15WithRegisterShift
    else
      let o := f (s.readRn rn) (s.shifterOperand op2).val s.cpsr.c
      s.writeResult sf rd o.res (s.cpsr.setArith o)

/-- MOV and MVN: Rn is not read and should be 0000 (41_data_processing.md R178, R180, R191). -/
def moveOp (f : Word → Word) (c : Cond) (sf : Bool) (rd sbz : RegNum) (op2 : Op2) (s : State) : Result :=
  s.whenPassed c <|
    if sbz ≠ 0#4 then .refused .shouldBeZero
    else if op2UsesR15 op2 then .refused .r15WithRegisterShift
    else
      let sh := s.shifterOperand op2
      let res := f sh.val
      s.writeResult sf rd res (s.cpsr.setLogical res sh.c)

/-- TST and TEQ: flags only; Rd should be 0000 (41_data_processing.md R173, R174, R191). -/
def testOp (f : Word → Word → Word) (c : Cond) (sbz rn : RegNum) (op2 : Op2) (s : State) : Result :=
  s.whenPassed c <|
    if sbz ≠ 0#4 then .refused .shouldBeZero
    else if r15InRegisterShift rn op2 then .refused .r15WithRegisterShift
    else
      let sh := s.shifterOperand op2
      s.advanceFrom (s.setCpsr (s.cpsr.setLogical (f (s.readRn rn) sh.val) sh.c))

/-- CMP and CMN: flags only; Rd should be 0000 (41_data_processing.md R175, R176, R191). -/
def compareOp (f : Word → Word → Bool → AluOut) (c : Cond) (sbz rn : RegNum) (op2 : Op2) (s : State) : Result :=
  s.whenPassed c <|
    if sbz ≠ 0#4 then .refused .shouldBeZero
    else if r15InRegisterShift rn op2 then .refused .r15WithRegisterShift
    else s.advanceFrom (s.setCpsr (s.cpsr.setArith (f (s.readRn rn) (s.shifterOperand op2).val s.cpsr.c)))

/-- A P form: the PSR bits of R15 are written from the result, in 26-bit modes only (41_data_processing.md R190). -/
def pFormOp (f : Word → Word → Word) (c : Cond) (rn : RegNum) (op2 : Op2) (s : State) : Result :=
  s.whenPassed c <|
    if r15InRegisterShift rn op2 then .refused .r15WithRegisterShift
    else if s.is26 then
      s.advanceFrom (s.setCpsr (s.cpsr.writePsr26 (f (s.readRn rn) (s.shifterOperand op2).val)))
    else .refused .pFormIn32bit

/-! ### The operations of 41_data_processing.md R160 -/

/-- AND: `res = a AND b` (41_data_processing.md R165). -/
def andResult (a b : Word) : Word := a &&& b

/-- EOR: `res = a EOR b` (41_data_processing.md R166). -/
def eorResult (a b : Word) : Word := a ^^^ b

/-- ORR: `res = a OR b` (41_data_processing.md R177). -/
def orrResult (a b : Word) : Word := a ||| b

/-- BIC: `res = a AND NOT b` (41_data_processing.md R179). -/
def bicResult (a b : Word) : Word := a &&& ~~~b

/-- SUB: `res = a - Op2` (41_data_processing.md R167). -/
def subResult (a b : Word) (_ : Bool) : AluOut := addWithCarry a (~~~b) true

/-- RSB: `res = Op2 - a` (41_data_processing.md R168). -/
def rsbResult (a b : Word) (_ : Bool) : AluOut := addWithCarry b (~~~a) true

/-- ADD: `res = a + Op2` (41_data_processing.md R169). -/
def addResult (a b : Word) (_ : Bool) : AluOut := addWithCarry a b false

/-- ADC: `res = a + Op2 + C` (41_data_processing.md R170). -/
def adcResult (a b : Word) (c : Bool) : AluOut := addWithCarry a b c

/-- SBC: `res = a - Op2 - (1 - C)` (41_data_processing.md R171). -/
def sbcResult (a b : Word) (c : Bool) : AluOut := addWithCarry a (~~~b) c

/-- RSC: `res = Op2 - a - (1 - C)` (41_data_processing.md R172). -/
def rscResult (a b : Word) (c : Bool) : AluOut := addWithCarry b (~~~a) c

/-! ### The instructions -/

/-- AND (41_data_processing.md R165). -/
def execAnd (c : Cond) (sf : Bool) (rd rn : RegNum) (op2 : Op2) (s : State) : Result :=
  logicalOp andResult c sf rd rn op2 s

/-- EOR (41_data_processing.md R166). -/
def execEor (c : Cond) (sf : Bool) (rd rn : RegNum) (op2 : Op2) (s : State) : Result :=
  logicalOp eorResult c sf rd rn op2 s

/-- SUB (41_data_processing.md R167). -/
def execSub (c : Cond) (sf : Bool) (rd rn : RegNum) (op2 : Op2) (s : State) : Result :=
  arithOp subResult c sf rd rn op2 s

/-- RSB (41_data_processing.md R168). -/
def execRsb (c : Cond) (sf : Bool) (rd rn : RegNum) (op2 : Op2) (s : State) : Result :=
  arithOp rsbResult c sf rd rn op2 s

/-- ADD (41_data_processing.md R169). -/
def execAdd (c : Cond) (sf : Bool) (rd rn : RegNum) (op2 : Op2) (s : State) : Result :=
  arithOp addResult c sf rd rn op2 s

/-- ADC (41_data_processing.md R170). -/
def execAdc (c : Cond) (sf : Bool) (rd rn : RegNum) (op2 : Op2) (s : State) : Result :=
  arithOp adcResult c sf rd rn op2 s

/-- SBC (41_data_processing.md R171). -/
def execSbc (c : Cond) (sf : Bool) (rd rn : RegNum) (op2 : Op2) (s : State) : Result :=
  arithOp sbcResult c sf rd rn op2 s

/-- RSC (41_data_processing.md R172). -/
def execRsc (c : Cond) (sf : Bool) (rd rn : RegNum) (op2 : Op2) (s : State) : Result :=
  arithOp rscResult c sf rd rn op2 s

/-- TST (41_data_processing.md R173). -/
def execTst (c : Cond) (sbz rn : RegNum) (op2 : Op2) (s : State) : Result :=
  testOp andResult c sbz rn op2 s

/-- TSTP (41_data_processing.md R190). -/
def execTstp (c : Cond) (rn : RegNum) (op2 : Op2) (s : State) : Result :=
  pFormOp andResult c rn op2 s

/-- TEQ (41_data_processing.md R174). -/
def execTeq (c : Cond) (sbz rn : RegNum) (op2 : Op2) (s : State) : Result :=
  testOp eorResult c sbz rn op2 s

/-- TEQP (41_data_processing.md R190). -/
def execTeqp (c : Cond) (rn : RegNum) (op2 : Op2) (s : State) : Result :=
  pFormOp eorResult c rn op2 s

/-- CMP (41_data_processing.md R175). -/
def execCmp (c : Cond) (sbz rn : RegNum) (op2 : Op2) (s : State) : Result :=
  compareOp subResult c sbz rn op2 s

/-- CMPP (41_data_processing.md R190). -/
def execCmpp (c : Cond) (rn : RegNum) (op2 : Op2) (s : State) : Result :=
  pFormOp (fun a b => (subResult a b s.cpsr.c).res) c rn op2 s

/-- CMN (41_data_processing.md R176). -/
def execCmn (c : Cond) (sbz rn : RegNum) (op2 : Op2) (s : State) : Result :=
  compareOp addResult c sbz rn op2 s

/-- CMNP (41_data_processing.md R190). -/
def execCmnp (c : Cond) (rn : RegNum) (op2 : Op2) (s : State) : Result :=
  pFormOp (fun a b => (addResult a b s.cpsr.c).res) c rn op2 s

/-- ORR (41_data_processing.md R177). -/
def execOrr (c : Cond) (sf : Bool) (rd rn : RegNum) (op2 : Op2) (s : State) : Result :=
  logicalOp orrResult c sf rd rn op2 s

/-- MOV: `res = Op2` (41_data_processing.md R178). -/
def execMov (c : Cond) (sf : Bool) (rd sbz : RegNum) (op2 : Op2) (s : State) : Result :=
  moveOp (fun v => v) c sf rd sbz op2 s

/-- BIC (41_data_processing.md R179). -/
def execBic (c : Cond) (sf : Bool) (rd rn : RegNum) (op2 : Op2) (s : State) : Result :=
  logicalOp bicResult c sf rd rn op2 s

/-- MVN: `res = NOT Op2` (41_data_processing.md R180). -/
def execMvn (c : Cond) (sf : Bool) (rd sbz : RegNum) (op2 : Op2) (s : State) : Result :=
  moveOp (fun v => ~~~v) c sf rd sbz op2 s

end Sys2Proof.Machine
end

