-- ==== Sys2Proof/Machine/Multiply.lean ====
section
/-! DEFINITION. The multiplies (43_multiply.md R210 to R214) and the long multiplies of ARM7DM (R215 to R221). -/

namespace Sys2Proof.Machine

/-- MUL and MLA past their restrictions: Rd and, with S, the flags (43_multiply.md R211 to R213). -/
def State.writeProduct (s : State) (sf : Bool) (rd : RegNum) (res : Word) : Result :=
  s.advanceFrom (if sf then (s.setX rd res).setMulFlags res else s.setX rd res)

/-- MUL: the low 32 bits of Rm * Rs; its nnnn field is ignored (43_multiply.md R211, R214). -/
def execMul (c : Cond) (sf : Bool) (rd _rn rs rm : RegNum) (s : State) : Result :=
  s.whenPassed c <|
    if rd = rm then .refused .mulRdEqualsRm
    else if rd = 15#4 ∨ rm = 15#4 ∨ rs = 15#4 then .refused .mulR15
    else s.writeProduct sf rd (s.x rm * s.x rs)

/-- MLA: the low 32 bits of Rm * Rs + Rn (43_multiply.md R212, R214). -/
def execMla (c : Cond) (sf : Bool) (rd rn rs rm : RegNum) (s : State) : Result :=
  s.whenPassed c <|
    if rd = rm then .refused .mulRdEqualsRm
    else if rd = 15#4 ∨ rm = 15#4 ∨ rs = 15#4 ∨ rn = 15#4 then .refused .mulR15
    else s.writeProduct sf rd (s.x rm * s.x rs + s.x rn)

/-- The 64-bit product of two unsigned words (43_multiply.md R216). -/
def productU (a b : Word) : BitVec 64 := a.zeroExtend 64 * b.zeroExtend 64

/-- The 64-bit product of two signed words (43_multiply.md R218). -/
def productS (a b : Word) : BitVec 64 := a.signExtend 64 * b.signExtend 64

/-- `Rh:Rl`, the 64-bit addend of the accumulating forms (43_multiply.md R215). -/
def State.accumulator (s : State) (rh rl : RegNum) : BitVec 64 := s.x rh ++ s.x rl

/-- A long multiply: the restrictions (43_multiply.md R221), then Rl, Rh and, with S, the flags (R216, R220). -/
def longMultiply (c : Cond) (sf : Bool) (rh rl rs rm : RegNum) (p : BitVec 64) (s : State) : Result :=
  s.whenPassed c <|
    if rh = 15#4 ∨ rl = 15#4 ∨ rm = 15#4 ∨ rs = 15#4 then .refused .mullR15
    else if rh = rl ∨ rh = rm ∨ rl = rm then .refused .mullRegOverlap
    else
      let written := (s.setX rl (p.extractLsb' 0 32)).setX rh (p.extractLsb' 32 32)
      s.advanceFrom (if sf then written.setMullFlags p else written)

/-- UMULL: unsigned (43_multiply.md R216). -/
def execUmull (c : Cond) (sf : Bool) (rh rl rs rm : RegNum) (s : State) : Result :=
  longMultiply c sf rh rl rs rm (productU (s.x rm) (s.x rs)) s

/-- UMLAL: unsigned, accumulating (43_multiply.md R217). -/
def execUmlal (c : Cond) (sf : Bool) (rh rl rs rm : RegNum) (s : State) : Result :=
  longMultiply c sf rh rl rs rm (productU (s.x rm) (s.x rs) + s.accumulator rh rl) s

/-- SMULL: signed (43_multiply.md R218). -/
def execSmull (c : Cond) (sf : Bool) (rh rl rs rm : RegNum) (s : State) : Result :=
  longMultiply c sf rh rl rs rm (productS (s.x rm) (s.x rs)) s

/-- SMLAL: signed, accumulating (43_multiply.md R219). -/
def execSmlal (c : Cond) (sf : Bool) (rh rl rs rm : RegNum) (s : State) : Result :=
  longMultiply c sf rh rl rs rm (productS (s.x rm) (s.x rs) + s.accumulator rh rl) s

end Sys2Proof.Machine
end

