-- ==== Sys2Proof/Machine/Swap.lean ====
section
/-! DEFINITION. The single data swaps (48_swap.md R320 to R323). -/

namespace Sys2Proof.Machine

/-- The state with the LOCK output driven (10_state.md R43). -/
def State.setLock (s : State) (high : Bool) : State := { s with lock := high }

/-- The swap of 48_swap.md R321 with `size`, its loaded value and its store given: LOCK is high during the two accesses, and Rd is
written only if neither aborts. -/
def swapAt (size : AccessSize) (rd : RegNum) (addr : Word) (load : State → Word) (store : State → State) (s : State) : Result :=
  if s.outOfRange addr then .fault .addressAbove64M
  else
    let locked := s.setLock true
    if locked.aborts addr size .read s.priv then (locked.setLock false).dataAbort
    else
      let t := load locked
      if locked.aborts addr size .write s.priv then (locked.setLock false).dataAbort
      else s.advanceFrom (((store locked).setLock false).setX rd t)

/-- SWP (48_swap.md R321). -/
def execSwp (c : Cond) (rn rd rm : RegNum) (s : State) : Result :=
  s.whenPassed c <|
    if rn = 15#4 ∨ rd = 15#4 ∨ rm = 15#4 then .refused .swpR15
    else
      let addr := s.x rn
      if !isAligned addr then .refused .unalignedWord
      else swapAt .word rd addr (fun t => t.wordAt addr) (fun t => t.storeWord addr (s.x rm)) s

/-- SWPB (48_swap.md R322). -/
def execSwpb (c : Cond) (rn rd rm : RegNum) (s : State) : Result :=
  s.whenPassed c <|
    if rn = 15#4 ∨ rd = 15#4 ∨ rm = 15#4 then .refused .swpR15
    else
      let addr := s.x rn
      swapAt .byte rd addr (fun t => (t.byteAt addr.toNat).zeroExtend 32)
        (fun t => t.storeByte addr ((s.x rm).extractLsb' 0 8)) s

end Sys2Proof.Machine
end

