-- ==== Sys2Proof/Machine/System.lean ====
section
/-! DEFINITION. SWI (46_software_interrupt.md), the status register transfers and the undefined and unallocated words
(49_status_transfer_and_undefined.md, 30_encoding.md R118). -/

namespace Sys2Proof.Machine

/-- SWI: the number is not interpreted; the exception is taken (46_software_interrupt.md R290, R291). -/
def execSwi (c : Cond) (_y : BitVec 24) (s : State) : Result :=
  s.whenPassed c (.next (s.takeException .softwareInterrupt (s.pc + 4)))

/-- MRS past its checks: the reserved bits read as free values (49_status_transfer_and_undefined.md R332, R333). -/
def State.readPsr (s : State) (rd : RegNum) (p : Psr) : Result :=
  s.advanceFrom ((s.setX rd (p.toWord (s.anyWord 0))).drawn 1)

/-- MRS (49_status_transfer_and_undefined.md R333). -/
def execMrs (c : Cond) (spsr : Bool) (rd : RegNum) (s : State) : Result :=
  s.whenPassed c <|
    if rd = 15#4 then .refused .mrsR15
    else if spsr then
      match s.spsr with
      | none => .refused .spsrInUser
      | some p => s.readPsr rd p
    else s.readPsr rd s.cpsr.toPsr

/-- Whether MSR writes the flag bits N, Z, C, V (49_status_transfer_and_undefined.md R334). -/
def partWritesFlags : PsrPart → Bool
  | .flg | .all => true
  | .ctl => false

/-- Whether MSR writes the control bits I, F, M (49_status_transfer_and_undefined.md R334). -/
def partWritesControl : PsrPart → Bool
  | .ctl | .all => true
  | .flg => false

/-- `WritePSRfields` on an SPSR: a mode value is stored as written (49_status_transfer_and_undefined.md R335). -/
def Psr.writeFields (p : Psr) (part : PsrPart) (v : Word) : Psr :=
  let q := Psr.ofWord v
  let flagged := if partWritesFlags part then { p with n := q.n, z := q.z, c := q.c, v := q.v } else p
  if partWritesControl part then { flagged with i := q.i, f := q.f, m := q.m } else flagged

/-- `WritePSRfields` on the CPSR: the control bits only from a privileged mode (49_status_transfer_and_undefined.md R335); none when
the new M is no defined mode. -/
def Cpsr.writeFields (p : Cpsr) (part : PsrPart) (v : Word) : Option Cpsr :=
  let q := Psr.ofWord v
  let flagged := if partWritesFlags part then { p with n := q.n, z := q.z, c := q.c, v := q.v } else p
  if partWritesControl part && p.mode.isPrivileged then
    (Mode.ofBits q.m).map fun m => { flagged with i := q.i, f := q.f, mode := m }
  else some flagged

/-- MSR past its condition, with its source value (49_status_transfer_and_undefined.md R335 to R337). -/
def State.writePsr (s : State) (spsr : Bool) (part : PsrPart) (v : Word) : Result :=
  if spsr then
    match s.spsr with
    | none => .refused .spsrInUser
    | some p => s.advanceFrom (s.setSpsrOf s.cpsr.mode.bank (p.writeFields part v))
  else
    match s.cpsr.writeFields part v with
    | none => .refused .modeIllegal
    | some q =>
      if q.mode.is26 && above64M (s.pc + 4) then .refused .pcAbove64MIn26bit
      else s.advanceFrom (s.setCpsr q)

/-- MSR, register form (49_status_transfer_and_undefined.md R336). -/
def execMsrReg (c : Cond) (spsr : Bool) (part : PsrPart) (rm : RegNum) (s : State) : Result :=
  s.whenPassed c <| if rm = 15#4 then .refused .msrR15 else s.writePsr spsr part (s.x rm)

/-- MSR, immediate form (49_status_transfer_and_undefined.md R337). -/
def execMsrImm (c : Cond) (spsr : Bool) (part : PsrPart) (r : BitVec 4) (b : BitVec 8) (s : State) : Result :=
  s.whenPassed c (s.writePsr spsr part (rotatedImm r b))

/-- A word of the undefined-instruction patterns traps when its condition passes (49_status_transfer_and_undefined.md R340). -/
def execUndefined (w : Word) (s : State) : Result :=
  s.whenPassed (condOfBits (fld w 28 4)) s.undefinedTrap

/-- A word of the unallocated spaces is refused whatever its condition (30_encoding.md R118, 40_condition_codes.md R141). -/
def execUnallocated (_w : Word) (_s : State) : Result := .refused .unallocatedEncoding

end Sys2Proof.Machine
end

