-- ==== Sys2Proof/Machine/Transfer.lean ====
section
/-! DEFINITION. The single data transfers (44_single_data_transfer.md R230 to R248). -/

namespace Sys2Proof.Machine

/-- The restrictions of 44_single_data_transfer.md R245, in its order. -/
def transferRefusal (byte : Bool) (ix : Indexing) (rn rd : RegNum) (off : Offset) : Option Refusal :=
  let rm : Option RegNum := match off with
    | .imm _ => none
    | .shifted rm _ _ => some rm
  if rm = some 15#4 then some .sdtRmR15
  else if rn = 15#4 ∧ writesBack ix then some .sdtWritebackR15
  else if byte ∧ rd = 15#4 then some .sdtByteR15
  else if rm = some rn ∧ ix = .post then some .sdtPostindexRnEqualsRm
  else if rd = rn ∧ writesBack ix then some .sdtRdEqualsRnWriteback
  else none

/-- The size of a single data transfer (44_single_data_transfer.md R230). -/
def transferSize (byte : Bool) : AccessSize := if byte then .byte else .word

/-- `idx`: the base plus or minus the offset (44_single_data_transfer.md R232). -/
def State.transferIdx (s : State) (up : Bool) (rn : RegNum) (off : Offset) : Word :=
  indexed up (s.readRn rn) (s.offsetValue off)

/-- `addr`: the address transferred (44_single_data_transfer.md R232). -/
def State.transferAddr (s : State) (ix : Indexing) (up : Bool) (rn : RegNum) (off : Offset) : Word :=
  selectAddr ix (s.readRn rn) (s.transferIdx up rn off)

/-- The checks that come before the access of a single data transfer: the restrictions (44_single_data_transfer.md R245),
alignment (20_memory.md R74) and the width of a data address (20_memory.md R71); then `access` at the address. -/
def State.checkedTransfer (s : State) (byte : Bool) (ix : Indexing) (up : Bool) (rn rd : RegNum) (off : Offset)
    (access : Word → Result) : Result :=
  match transferRefusal byte ix rn rd off with
  | some r => .refused r
  | none =>
    let addr := s.transferAddr ix up rn off
    if !byte && !isAligned addr then .refused .unalignedWord
    else if s.outOfRange addr then .fault .addressAbove64M
    else access addr

/-- A load (44_single_data_transfer.md R234): on an abort Rd is not written (R248); R15 as Rd writes the pc alone (R246). -/
def loadSingle (byte : Bool) (c : Cond) (ix : Indexing) (up : Bool) (rn rd : RegNum) (off : Offset) (priv : Priv)
    (s : State) : Result :=
  s.whenPassed c <| s.checkedTransfer byte ix up rn rd off fun addr =>
    let idx := s.transferIdx up rn off
    if s.aborts addr (transferSize byte) .read priv then (s.abortBase (writesBack ix) rn idx).dataAbort
    else
      let v := if byte then (s.byteAt addr.toNat).zeroExtend 32 else s.wordAt addr
      let t := s.writeBackIf (writesBack ix) rn idx
      if rd = 15#4 then .next (t.writePc v) else s.advanceFrom (t.setX rd v)

/-- The state after the access of a store: R15 stores as `StoredR15()`, a byte store the least significant byte
(44_single_data_transfer.md R234, R240, R246). -/
def State.storeSingleAt (s : State) (byte : Bool) (rd : RegNum) (addr : Word) : State :=
  let v := if rd = 15#4 then s.storedR15 else s.x rd
  if byte then s.storeByte addr (v.extractLsb' 0 8) else s.storeWord addr v

/-- A store (44_single_data_transfer.md R234): an aborted store changes no memory (R248). -/
def storeSingle (byte : Bool) (c : Cond) (ix : Indexing) (up : Bool) (rn rd : RegNum) (off : Offset) (priv : Priv)
    (s : State) : Result :=
  s.whenPassed c <| s.checkedTransfer byte ix up rn rd off fun addr =>
    let idx := s.transferIdx up rn off
    if s.aborts addr (transferSize byte) .write priv then (s.abortBase (writesBack ix) rn idx).dataAbort
    else s.advanceFrom ((s.storeSingleAt byte rd addr).writeBackIf (writesBack ix) rn idx)

/-- LDR (44_single_data_transfer.md R237). -/
def execLdr (c : Cond) (ix : Indexing) (up : Bool) (rn rd : RegNum) (off : Offset) (s : State) : Result :=
  loadSingle false c ix up rn rd off s.priv s

/-- LDRB (44_single_data_transfer.md R238). -/
def execLdrb (c : Cond) (ix : Indexing) (up : Bool) (rn rd : RegNum) (off : Offset) (s : State) : Result :=
  loadSingle true c ix up rn rd off s.priv s

/-- STR (44_single_data_transfer.md R239). -/
def execStr (c : Cond) (ix : Indexing) (up : Bool) (rn rd : RegNum) (off : Offset) (s : State) : Result :=
  storeSingle false c ix up rn rd off s.priv s

/-- STRB (44_single_data_transfer.md R240). -/
def execStrb (c : Cond) (ix : Indexing) (up : Bool) (rn rd : RegNum) (off : Offset) (s : State) : Result :=
  storeSingle true c ix up rn rd off s.priv s

/-- LDRT: post-indexed, presented as a user-mode access (44_single_data_transfer.md R236, R241). -/
def execLdrt (c : Cond) (up : Bool) (rn rd : RegNum) (off : Offset) (s : State) : Result :=
  loadSingle false c .post up rn rd off .user s

/-- LDRBT: post-indexed, presented as a user-mode access (44_single_data_transfer.md R236, R242). -/
def execLdrbt (c : Cond) (up : Bool) (rn rd : RegNum) (off : Offset) (s : State) : Result :=
  loadSingle true c .post up rn rd off .user s

/-- STRT: post-indexed, presented as a user-mode access (44_single_data_transfer.md R236, R243). -/
def execStrt (c : Cond) (up : Bool) (rn rd : RegNum) (off : Offset) (s : State) : Result :=
  storeSingle false c .post up rn rd off .user s

/-- STRBT: post-indexed, presented as a user-mode access (44_single_data_transfer.md R236, R244). -/
def execStrbt (c : Cond) (up : Bool) (rn rd : RegNum) (off : Offset) (s : State) : Result :=
  storeSingle true c .post up rn rd off .user s

end Sys2Proof.Machine
end

