-- ==== Sys2Proof/Machine/Dispatch.lean ====
section
/-! DEFINITION. One arm for each instruction. -/

namespace Sys2Proof.Machine

def exec (i : Instr) (s : State) : Host.Outcome State Fault Refusal :=
  match i with
  | .and c sf rd rn op2 => Sys2Proof.Machine.execAnd c sf rd rn op2 s
  | .eor c sf rd rn op2 => Sys2Proof.Machine.execEor c sf rd rn op2 s
  | .sub c sf rd rn op2 => Sys2Proof.Machine.execSub c sf rd rn op2 s
  | .rsb c sf rd rn op2 => Sys2Proof.Machine.execRsb c sf rd rn op2 s
  | .add c sf rd rn op2 => Sys2Proof.Machine.execAdd c sf rd rn op2 s
  | .adc c sf rd rn op2 => Sys2Proof.Machine.execAdc c sf rd rn op2 s
  | .sbc c sf rd rn op2 => Sys2Proof.Machine.execSbc c sf rd rn op2 s
  | .rsc c sf rd rn op2 => Sys2Proof.Machine.execRsc c sf rd rn op2 s
  | .tst c sbz rn op2 => Sys2Proof.Machine.execTst c sbz rn op2 s
  | .tstp c rn op2 => Sys2Proof.Machine.execTstp c rn op2 s
  | .teq c sbz rn op2 => Sys2Proof.Machine.execTeq c sbz rn op2 s
  | .teqp c rn op2 => Sys2Proof.Machine.execTeqp c rn op2 s
  | .cmp c sbz rn op2 => Sys2Proof.Machine.execCmp c sbz rn op2 s
  | .cmpp c rn op2 => Sys2Proof.Machine.execCmpp c rn op2 s
  | .cmn c sbz rn op2 => Sys2Proof.Machine.execCmn c sbz rn op2 s
  | .cmnp c rn op2 => Sys2Proof.Machine.execCmnp c rn op2 s
  | .orr c sf rd rn op2 => Sys2Proof.Machine.execOrr c sf rd rn op2 s
  | .mov c sf rd sbz op2 => Sys2Proof.Machine.execMov c sf rd sbz op2 s
  | .bic c sf rd rn op2 => Sys2Proof.Machine.execBic c sf rd rn op2 s
  | .mvn c sf rd sbz op2 => Sys2Proof.Machine.execMvn c sf rd sbz op2 s
  | .b c o => Sys2Proof.Machine.execB c o s
  | .bl c o => Sys2Proof.Machine.execBl c o s
  | .mul c sf rd rn rs rm => Sys2Proof.Machine.execMul c sf rd rn rs rm s
  | .mla c sf rd rn rs rm => Sys2Proof.Machine.execMla c sf rd rn rs rm s
  | .umull c sf rh rl rs rm => Sys2Proof.Machine.execUmull c sf rh rl rs rm s
  | .umlal c sf rh rl rs rm => Sys2Proof.Machine.execUmlal c sf rh rl rs rm s
  | .smull c sf rh rl rs rm => Sys2Proof.Machine.execSmull c sf rh rl rs rm s
  | .smlal c sf rh rl rs rm => Sys2Proof.Machine.execSmlal c sf rh rl rs rm s
  | .ldr c ix up rn rd off => Sys2Proof.Machine.execLdr c ix up rn rd off s
  | .ldrb c ix up rn rd off => Sys2Proof.Machine.execLdrb c ix up rn rd off s
  | .str c ix up rn rd off => Sys2Proof.Machine.execStr c ix up rn rd off s
  | .strb c ix up rn rd off => Sys2Proof.Machine.execStrb c ix up rn rd off s
  | .ldrt c up rn rd off => Sys2Proof.Machine.execLdrt c up rn rd off s
  | .ldrbt c up rn rd off => Sys2Proof.Machine.execLdrbt c up rn rd off s
  | .strt c up rn rd off => Sys2Proof.Machine.execStrt c up rn rd off s
  | .strbt c up rn rd off => Sys2Proof.Machine.execStrbt c up rn rd off s
  | .ldmia c hat wb rn list => Sys2Proof.Machine.execLdmia c hat wb rn list s
  | .ldmib c hat wb rn list => Sys2Proof.Machine.execLdmib c hat wb rn list s
  | .ldmda c hat wb rn list => Sys2Proof.Machine.execLdmda c hat wb rn list s
  | .ldmdb c hat wb rn list => Sys2Proof.Machine.execLdmdb c hat wb rn list s
  | .stmia c hat wb rn list => Sys2Proof.Machine.execStmia c hat wb rn list s
  | .stmib c hat wb rn list => Sys2Proof.Machine.execStmib c hat wb rn list s
  | .stmda c hat wb rn list => Sys2Proof.Machine.execStmda c hat wb rn list s
  | .stmdb c hat wb rn list => Sys2Proof.Machine.execStmdb c hat wb rn list s
  | .swi c y => Sys2Proof.Machine.execSwi c y s
  | .cdp c o crn crd p q crm => Sys2Proof.Machine.execCdp c o crn crd p q crm s
  | .ldc c ix up long rn crd p o => Sys2Proof.Machine.execLdc c ix up long rn crd p o s
  | .stc c ix up long rn crd p o => Sys2Proof.Machine.execStc c ix up long rn crd p o s
  | .mcr c o crn rd p q crm => Sys2Proof.Machine.execMcr c o crn rd p q crm s
  | .mrc c o crn rd p q crm => Sys2Proof.Machine.execMrc c o crn rd p q crm s
  | .swp c rn rd rm => Sys2Proof.Machine.execSwp c rn rd rm s
  | .swpb c rn rd rm => Sys2Proof.Machine.execSwpb c rn rd rm s
  | .mrs c spsr rd => Sys2Proof.Machine.execMrs c spsr rd s
  | .msrReg c spsr part rm => Sys2Proof.Machine.execMsrReg c spsr part rm s
  | .msrImm c spsr part r b => Sys2Proof.Machine.execMsrImm c spsr part r b s
  | .undefined w => Sys2Proof.Machine.execUndefined w s
  | .unallocated w => Sys2Proof.Machine.execUnallocated w s

end Sys2Proof.Machine
end

