-- ==== Sys2Proof/Machine/Fetch.lean ====
section
/-! DEFINITION. What is due in a step: an entry asked for from outside, a prefetch abort, or the instruction at the pc
(60_exceptions.md R356, R360 to R364). -/

namespace Sys2Proof.Machine

/-- The nearest sample of a schedule: of its own list, then of the open schedule or no request (60_exceptions.md R360). -/
def Schedule.now (q : Schedule) : Inputs :=
  match q.near with
  | i :: _ => i
  | [] =>
    match q.later with
    | none => ⟨false, false, false⟩
    | some n => Config.scheduled n

/-- A schedule once its nearest sample is taken. -/
def Schedule.rest (q : Schedule) : Schedule :=
  match q.near with
  | _ :: l => { q with near := l }
  | [] => { q with later := q.later.map (· + 1) }

/-- The request inputs as they are before this instruction (60_exceptions.md R360). -/
def State.inputsNow (s : State) : Inputs := s.inputs.now

/-- The state with this instruction's sample of the inputs taken. -/
def State.inputsTaken (s : State) : State := { s with inputs := s.inputs.rest }

/-- What is due. -/
inductive Due where
  /-- An exception was entered: the step is over. -/
  | entered (s : State)
  /-- The instruction at the pc is to be executed. -/
  | run (i : Instr) (s : State)
  /-- The spec gives no effect. -/
  | stop (r : Refusal)
deriving DecidableEq, Repr

/-- What is due (60_exceptions.md R360, R364): reset before FIQ before IRQ before the instruction at P; an aborted fetch takes
its exception whatever the word (R356); a word the program has stored is refused (20_memory.md R88, 70_reset_and_hazards.md R410,
92_eei_decisions.md D13, log 13). -/
def State.due (s : State) : Due :=
  let t := s.inputsTaken
  if s.inputsNow.reset then .entered t.resetInput
  else if s.inputsNow.fiq && !t.cpsr.f then .entered (t.takeException .fiq (t.pc + 4))
  else if s.inputsNow.irq && !t.cpsr.i then .entered (t.takeException .irq (t.pc + 4))
  else if t.aborts t.pc .word .read t.priv then .entered (t.takeException .prefetchAbort (t.pc + 4))
  else if t.storedWords.contains (wordBase t.pc) then .stop .selfModifyingCode
  else .run (decode t.variant (t.wordAt t.pc)) t

/-- The state with a word loaded from outside the machine at the pc, and nothing in the way of its execution in the next step:
no request in that one step, no abort of its fetch, and not stored by the program. -/
def State.loadedAtPc (s : State) (w : Word) : State :=
  { s with
    mem := writeMemWord s.mem s.pc w
    storedWords := s.storedWords.filter fun a => a != wordBase s.pc
    inputs := { s.inputs.rest with near := ⟨false, false, false⟩ :: s.inputs.rest.near }
    memMap := s.memMap.filter fun r => !ruleHits r s.pc .word .read s.priv }

end Sys2Proof.Machine
end

