-- ==== Sys2Proof/Machine/Step.lean ====
section
/-! DEFINITION. One step of the machine. -/

namespace Sys2Proof.Machine

/-- One step: an exception entry from outside, a prefetch abort, or the instruction at the pc (60_exceptions.md R360). -/
def step (s : State) : Host.Outcome State Fault Refusal :=
  match s.due with
  | .entered t => .next t
  | .run i t => exec i t
  | .stop r => .refused r

/-- `s` with the instruction whose bits are `w` where the next step fetches (log 23); bits from `nbits` on are 0. -/
def State.withFetchWord (s : State) (nbits w : Nat) : State := s.loadedAtPc (BitVec.ofNat 32 (w % 2 ^ nbits))

end Sys2Proof.Machine
end

