-- ==== Sys2Proof/Machine/Run.lean ====
section
/-! DEFINITION. A run: steps until the predicate `END_OF_RUN`, which whoever runs the machine supplies (00_scope.md R6,
92_eei_decisions.md D20). -/

namespace Sys2Proof.Machine

/-- How a run stands. -/
inductive Run where
  /-- `END_OF_RUN` holds of this state, the first of the run of which it does. -/
  | ended (s : State)
  /-- The steps allowed are used up in this state, of which `END_OF_RUN` does not hold. -/
  | going (s : State)
  /-- The step from this state is a fault. -/
  | faulted (f : Fault) (s : State)
  /-- The step from this state is refused. -/
  | refused (r : Refusal) (s : State)
deriving DecidableEq, Repr

/-- The run from a state: it ends in the first state of which `endOfRun`, the open parameter `END_OF_RUN`, holds, after at most so many
steps (00_scope.md R6, 92_eei_decisions.md D20: "a predicate on states supplied by the user of the model"). -/
def runUntil (endOfRun : State → Bool) : Nat → State → Run
  | 0, s => if endOfRun s then .ended s else .going s
  | n + 1, s =>
    if endOfRun s then .ended s
    else
      match step s with
      | .next t => runUntil endOfRun n t
      | .fault f => .faulted f s
      | .refused r => .refused r s

end Sys2Proof.Machine
end

