-- ==== Sys2Proof/Safety.lean ====
section
/-! DEFINITION. What counts as a safe state and a safe outcome, and the vocabulary of the statements: what an instruction leaves
alone, and the effects of 41_data_processing.md, 60_exceptions.md and 10_state.md in terms of reads of the state. -/

namespace Sys2Proof.Machine

/-! ### Outcomes and invariants -/

/-- The outcome is a next state: neither a fault nor a refusal. -/
def Completes (r : Result) : Prop := ∃ t, r = .next t

/-- The pc is a word address, and below 64 MBytes in a 26-bit mode (10_state.md R30). -/
def State.PcOk (s : State) : Prop := s.pc.extractLsb' 0 2 = 0#2 ∧ (s.is26 = true → s.pc.extractLsb' 26 6 = 0#6)

/-- On `pre6` M[4:2] = 000 always (10_state.md R27). -/
def State.ModeOk (s : State) : Prop := s.variant.isArm6Plus = false → s.is26 = true

/-- Memory is in its canonical form. -/
def State.MemOk (s : State) : Prop := Memory.wf s.mem = true

/-- The stored words are word addresses in rising order. -/
def State.StoredOk (s : State) : Prop := s.storedWords.Pairwise (· < ·) ∧ ∀ a ∈ s.storedWords, a % 4 = 0 ∧ a < 2 ^ 32

/-- What holds of every state that a run from reset reaches, whatever the processor: the pc is legal for the mode, the mode exists
on the processor, memory and the stored words are in canonical form, and LOCK is low between instructions (10_state.md R43). -/
def State.Inv (s : State) : Prop := s.PcOk ∧ s.ModeOk ∧ s.MemOk ∧ s.StoredOk ∧ s.lock = false

/-! ### What an instruction needs and what it leaves alone -/

/-- The condition passes and the pc can step on (40_condition_codes.md R141, 10_state.md R30). -/
def State.Ready (s : State) (c : Cond) : Prop := condPassed s.cpsr c = true ∧ s.pc ≠ s.pcTop

/-- The condition field of an instruction; an unallocated word has none that counts (40_condition_codes.md R141). -/
def conditionOf : Instr → Option Cond
  | .and c .. | .eor c .. | .sub c .. | .rsb c .. | .add c .. | .adc c .. | .sbc c .. | .rsc c .. | .tst c .. | .tstp c ..
  | .teq c .. | .teqp c .. | .cmp c .. | .cmpp c .. | .cmn c .. | .cmnp c .. | .orr c .. | .mov c .. | .bic c .. | .mvn c ..
  | .b c .. | .bl c .. | .mul c .. | .mla c .. | .umull c .. | .umlal c .. | .smull c .. | .smlal c ..
  | .ldr c .. | .ldrb c .. | .str c .. | .strb c .. | .ldrt c .. | .ldrbt c .. | .strt c .. | .strbt c ..
  | .ldmia c .. | .ldmib c .. | .ldmda c .. | .ldmdb c .. | .stmia c .. | .stmib c .. | .stmda c .. | .stmdb c ..
  | .swi c .. | .cdp c .. | .ldc c .. | .stc c .. | .mcr c .. | .mrc c .. | .swp c .. | .swpb c ..
  | .mrs c .. | .msrReg c .. | .msrImm c .. => some c
  | .undefined w => some (condOfBits (fld w 28 4))
  | .unallocated _ => none

/-- The saved statuses are those of `s`. -/
def State.SameSpsrs (s t : State) : Prop := ∀ b, t.spsrOf b = s.spsrOf b

/-- The processor, the memory manager, the coprocessors, LOCK and the inputs to come are those of `s`. -/
def State.SameSystem (s t : State) : Prop :=
  t.variant = s.variant ∧ t.memMap = s.memMap ∧ t.coprocs = s.coprocs ∧ t.lock = s.lock ∧ t.inputs = s.inputs

/-- Every byte of memory reads as in `s`. -/
def State.SameBytes (s t : State) : Prop := ∀ a, t.byteAt a = s.byteAt a

/-- Every physical register but those that bank `b` shows as one of `regs` is as in `s`. -/
def State.SameRegsBut (s t : State) (b : Bank) (regs : List RegNum) : Prop :=
  ∀ q, (∀ i ∈ regs, physReg b i ≠ some q) → t.phys q = s.phys q

/-- The frame of an instruction that steps on and stores nothing: of the registers it writes only `regs` of the current bank. -/
def State.StepsOn (s t : State) (regs : List RegNum) : Prop :=
  t.pc = s.pc + 4 ∧ s.SameSystem t ∧ s.SameSpsrs t ∧ s.SameBytes t ∧ t.storedWords = s.storedWords ∧
    s.SameRegsBut t s.cpsr.mode.bank regs

/-- The frame of an instruction that writes the pc and stores nothing: of the registers it writes only `regs` of the current bank; on an
uncached processor the words stored before may be executed again (20_memory.md R88). -/
def State.Jumps (s t : State) (regs : List RegNum) : Prop :=
  s.SameSystem t ∧ s.SameSpsrs t ∧ s.SameBytes t ∧
    t.storedWords = (if s.variant.isUncached then [] else s.storedWords) ∧ s.SameRegsBut t s.cpsr.mode.bank regs

/-- The frame of an instruction that steps on and stores `n` bytes at `addr`: of the registers it writes only `regs` of the current
bank; the word that holds `addr` counts as stored. -/
def State.StoresAt (s t : State) (addr : Word) (n : Nat) (regs : List RegNum) : Prop :=
  t.pc = s.pc + 4 ∧ t.variant = s.variant ∧ t.memMap = s.memMap ∧ t.coprocs = s.coprocs ∧ t.inputs = s.inputs ∧
    s.SameSpsrs t ∧ (∀ a : Nat, a < addr.toNat ∨ addr.toNat + n ≤ a → t.byteAt a = s.byteAt a) ∧
    (∀ a, a ∈ t.storedWords ↔ a ∈ s.storedWords ∨ a = addr.toNat / 4 * 4) ∧ s.SameRegsBut t s.cpsr.mode.bank regs

/-- The number that four bytes from `a` on hold, the byte at the lowest address least significant (20_memory.md R73). -/
def State.leWord (s : State) (a : Nat) : Nat :=
  (s.byteAt a).toNat + 2 ^ 8 * (s.byteAt (a + 1)).toNat + 2 ^ 16 * (s.byteAt (a + 2)).toNat + 2 ^ 24 * (s.byteAt (a + 3)).toNat

/-! ### Data processing -/

/-- The twelve data processing instructions that have a destination (41_data_processing.md R160). -/
inductive DataOp where
  | and | eor | sub | rsb | add | adc | sbc | rsc | orr | mov | bic | mvn
deriving DecidableEq, Repr

/-- The instruction of an operation; the nnnn field of MOV and MVN is the one that should be 0000. -/
def DataOp.instr : DataOp → Cond → Bool → RegNum → RegNum → Op2 → Instr
  | .and => .and | .eor => .eor | .sub => .sub | .rsb => .rsb | .add => .add | .adc => .adc | .sbc => .sbc | .rsc => .rsc
  | .orr => .orr | .mov => .mov | .bic => .bic | .mvn => .mvn

/-- Whether Rn is read: not by MOV and MVN (41_data_processing.md R151). -/
def DataOp.readsRn : DataOp → Bool
  | .mov | .mvn => false
  | .and | .eor | .sub | .rsb | .add | .adc | .sbc | .rsc | .orr | .bic => true

/-- The P-code column of 41_data_processing.md R160, on a = Rn, b = Op2 and the carry flag. -/
def DataOp.value (op : DataOp) (a b : Word) (c : Bool) : Word :=
  match op with
  | .and => a &&& b
  | .eor => a ^^^ b
  | .sub => a - b
  | .rsb => b - a
  | .add => a + b
  | .adc => a + b + (if c then 1 else 0)
  | .sbc => a - b - (if c then 0 else 1)
  | .rsc => b - a - (if c then 0 else 1)
  | .orr => a ||| b
  | .mov => b
  | .bic => a &&& ~~~b
  | .mvn => ~~~b

/-- The C flag of the arithmetic class: a carry out of the sum, or no borrow in the difference (41_data_processing.md R159). None for the
logical class. -/
def DataOp.carry (op : DataOp) (a b : Word) (c : Bool) : Option Bool :=
  match op with
  | .sub => some (decide (b.toNat ≤ a.toNat))
  | .rsb => some (decide (a.toNat ≤ b.toNat))
  | .add => some (decide (2 ^ 32 ≤ a.toNat + b.toNat))
  | .adc => some (decide (2 ^ 32 ≤ a.toNat + b.toNat + (if c then 1 else 0)))
  | .sbc => some (decide (b.toNat + (if c then 0 else 1) ≤ a.toNat))
  | .rsc => some (decide (a.toNat + (if c then 0 else 1) ≤ b.toNat))
  | .and | .eor | .orr | .mov | .bic | .mvn => none

/-- The exact signed result of the arithmetic class, whose overflow is V (41_data_processing.md R159). -/
def DataOp.signed (op : DataOp) (a b : Word) (c : Bool) : Int :=
  match op with
  | .sub => a.toInt - b.toInt
  | .rsb => b.toInt - a.toInt
  | .add => a.toInt + b.toInt
  | .adc => a.toInt + b.toInt + (if c then 1 else 0)
  | .sbc => a.toInt - b.toInt - (if c then 0 else 1)
  | .rsc => b.toInt - a.toInt - (if c then 0 else 1)
  | .and | .eor | .orr | .mov | .bic | .mvn => 0

/-- `SetFlags` (41_data_processing.md R161): what an operation on a = Rn and the shifted Op2 makes of the status. -/
def DataOp.flags (op : DataOp) (p : Cpsr) (a : Word) (sh : Shifted) : Cpsr :=
  let r := op.value a sh.val p.c
  match op.carry a sh.val p.c with
  | none => { p with n := decide (r.toInt < 0), z := decide (r = 0#32), c := sh.c }
  | some carry =>
    { p with
      n := decide (r.toInt < 0)
      z := decide (r = 0#32)
      c := carry
      v := decide (op.signed a sh.val p.c < -2 ^ 31 ∨ 2 ^ 31 ≤ op.signed a sh.val p.c) }

/-- The spellings that 41_data_processing.md R152 and R191 admit. -/
def DataOp.Admits (op : DataOp) (rn : RegNum) (op2 : Op2) : Prop :=
  (op.readsRn = false → rn = 0#4) ∧ ∀ rm kind rc, op2 = .shiftReg rm kind rc → rn ≠ 15#4 ∧ rm ≠ 15#4 ∧ rc ≠ 15#4

/-- The four comparisons (41_data_processing.md R173 to R176). -/
inductive TestOp where
  | tst | teq | cmp | cmn
deriving DecidableEq, Repr

/-- The instruction of a comparison; its dddd field should be 0000. -/
def TestOp.instr : TestOp → Cond → RegNum → RegNum → Op2 → Instr
  | .tst => .tst | .teq => .teq | .cmp => .cmp | .cmn => .cmn

/-- The P form of a comparison (41_data_processing.md R190). -/
def TestOp.pInstr : TestOp → Cond → RegNum → Op2 → Instr
  | .tst => .tstp | .teq => .teqp | .cmp => .cmpp | .cmn => .cmnp

/-- The operation whose result a comparison looks at (41_data_processing.md R160). -/
def TestOp.op : TestOp → DataOp
  | .tst => .and | .teq => .eor | .cmp => .sub | .cmn => .add

/-! ### The program counter and the status -/

/-- What `WritePC_PSR(v)` leaves (10_state.md R34), the pc and the status of a 26-bit mode: N, Z, C, V always, the rest only from a
privileged mode. -/
def WrotePsr26 (p q : Cpsr) (v : Word) : Prop :=
  q.n = v.getLsbD 31 ∧ q.z = v.getLsbD 30 ∧ q.c = v.getLsbD 29 ∧ q.v = v.getLsbD 28 ∧
  (p.mode.isPrivileged = true → q.i = v.getLsbD 27 ∧ q.f = v.getLsbD 26 ∧ q.mode.toBits = 0b000#3 ++ v.extractLsb' 0 2) ∧
  (p.mode.isPrivileged = false → q.i = p.i ∧ q.f = p.f ∧ q.mode = p.mode)

/-- Whether the status can be restored with a new pc `v`: always in a 26-bit mode; in a 32-bit mode from an SPSR that holds a defined
mode, a 26-bit one only with `v` below 64 MBytes (10_state.md R39). -/
def State.CanReturn (s : State) (v : Word) : Prop :=
  s.is26 = false → ∃ p m, s.spsr = some p ∧ Mode.ofBits p.m = some m ∧ (m.is26 = true → v.extractLsb' 26 6 = 0#6)

/-- The pc and the status after R15 and the status are written together from `v` (10_state.md R34, R39; 60_exceptions.md R370). -/
def State.Returned (s t : State) (v : Word) : Prop :=
  (s.is26 = true → t.pc = v &&& 0x03FFFFFC#32 ∧ WrotePsr26 s.cpsr t.cpsr v) ∧
  (s.is26 = false → t.pc = v &&& 0xFFFFFFFC#32 ∧ s.spsr = some t.cpsr.toPsr)

/-- Why a return form that would write `v` to the pc is refused in a 32-bit mode (10_state.md R39): user mode has no SPSR; the SPSR holds
no defined mode; it holds a 26-bit mode and the new pc lies above 64 MBytes. -/
def State.ReturnRefused (s : State) (v : Word) (r : Refusal) : Prop :=
  s.is26 = false ∧
  ((s.isPrivileged = false ∧ r = .spsrInUser) ∨
   ∃ p, s.spsr = some p ∧
     ((Mode.ofBits p.m = none ∧ r = .modeIllegal) ∨
      ∃ m, Mode.ofBits p.m = some m ∧ m.is26 = true ∧ v.extractLsb' 26 6 ≠ 0#6 ∧ r = .pcAbove64MIn26bit))

/-- What a write of `v` to the CPSR needs (49_status_transfer_and_undefined.md R335): a defined mode where the mode is written, and the next
pc below 64 MBytes where the mode afterwards is a 26-bit one. -/
def State.MsrAdmits (s : State) (part : PsrPart) (v : Word) : Prop :=
  (part ≠ .flg ∧ s.isPrivileged = true → ∃ m, Mode.ofBits (v.extractLsb' 0 5) = some m) ∧
  ((if part ≠ .flg ∧ s.isPrivileged = true then v.getLsbD 4 = false else s.is26 = true) → (s.pc + 4).extractLsb' 26 6 = 0#6)

/-- The rows of 60_exceptions.md R352: the vector, M[4:0] on `pre6`, M[4:0] on `arm6plus`. -/
def excRow : Exc → Word × BitVec 5 × BitVec 5
  | .reset => (0x00#32, 0b00011#5, 0b10011#5)
  | .undefinedInstruction => (0x04#32, 0b00011#5, 0b11011#5)
  | .softwareInterrupt => (0x08#32, 0b00011#5, 0b10011#5)
  | .prefetchAbort => (0x0C#32, 0b00011#5, 0b10111#5)
  | .dataAbort => (0x10#32, 0b00011#5, 0b10111#5)
  | .irq => (0x18#32, 0b00010#5, 0b10010#5)
  | .fiq => (0x1C#32, 0b00001#5, 0b10001#5)

/-- What an exception entry leaves of the state `u` it is taken in (60_exceptions.md R353), in terms of the mode entered. On `arm6plus` R14
holds the whole of `ret`, also past the top of a 26-bit mode (log 30). -/
def Entered (u : State) (k : Exc) (ret : Word) (t : State) : Prop :=
  t.pc = (excRow k).1 ∧
  t.cpsr.mode.toBits = (if u.variant.isArm6Plus then (excRow k).2.2 else (excRow k).2.1) ∧
  t.cpsr.i = true ∧ t.cpsr.f = (u.cpsr.f || k == .fiq || k == .reset) ∧
  t.cpsr.n = u.cpsr.n ∧ t.cpsr.z = u.cpsr.z ∧ t.cpsr.c = u.cpsr.c ∧ t.cpsr.v = u.cpsr.v ∧
  (u.variant.isArm6Plus = true →
    t.spsr = some u.cpsr.toPsr ∧ t.x 14#4 = ret ∧ ∀ b, b ≠ t.cpsr.mode.bank → t.spsrOf b = u.spsrOf b) ∧
  (u.variant.isArm6Plus = false → t.x 14#4 = psrWord26 u.cpsr ret ∧ u.SameSpsrs t) ∧
  u.SameRegsBut t t.cpsr.mode.bank [14#4] ∧ u.SameSystem t ∧ u.SameBytes t ∧
  t.storedWords = (if u.variant.isUncached then [] else u.storedWords)

/-! ### Transfers -/

/-- The load of a size, plain or in its T form, which is always post-indexed (44_single_data_transfer.md R237, R238, R241, R242). -/
def loadInstr (byte tForm : Bool) (c : Cond) (ix : Indexing) (up : Bool) (rn rd : RegNum) (off : Offset) : Instr :=
  match byte, tForm with
  | false, false => .ldr c ix up rn rd off
  | true, false => .ldrb c ix up rn rd off
  | false, true => .ldrt c up rn rd off
  | true, true => .ldrbt c up rn rd off

/-- The store of a size, plain or in its T form, which is always post-indexed (44_single_data_transfer.md R239, R240, R243, R244). -/
def storeInstr (byte tForm : Bool) (c : Cond) (ix : Indexing) (up : Bool) (rn rd : RegNum) (off : Offset) : Instr :=
  match byte, tForm with
  | false, false => .str c ix up rn rd off
  | true, false => .strb c ix up rn rd off
  | false, true => .strt c up rn rd off
  | true, true => .strbt c up rn rd off

/-- The privilege a transfer presents (44_single_data_transfer.md R233). -/
def State.privOf (s : State) (tForm : Bool) : Priv := if tForm || !s.isPrivileged then .user else .privileged

/-- The spellings that 44_single_data_transfer.md R245 admits; a T form is post-indexed (R236). -/
def TransferAdmits (byte tForm : Bool) (ix : Indexing) (rn rd : RegNum) (off : Offset) : Prop :=
  (tForm = true → ix = .post) ∧ (ix ≠ .pre → rn ≠ 15#4 ∧ rd ≠ rn) ∧ (byte = true → rd ≠ 15#4) ∧
    ∀ rm kind amount, off = .shifted rm kind amount → rm ≠ 15#4 ∧ (ix = .post → rm ≠ rn)

/-- The transfer's address is one that the processor can put on its bus: a multiple of 4 for a word, and 26 bits wide on `pre6`
(20_memory.md R71, R74). -/
def State.Reaches (s : State) (byte : Bool) (addr : Word) : Prop :=
  (byte = false → addr.toNat % 4 = 0) ∧ (s.variant.isArm6Plus = false → addr.toNat < 2 ^ 26)

/-- The load multiple of an address progression (45_block_data_transfer.md R266 to R269). -/
def loadMultiple : BlockMode → Cond → Bool → Bool → RegNum → BitVec 16 → Instr
  | .ia => .ldmia | .ib => .ldmib | .da => .ldmda | .db => .ldmdb

/-- The store multiple of an address progression (45_block_data_transfer.md R272 to R275). -/
def storeMultiple : BlockMode → Cond → Bool → Bool → RegNum → BitVec 16 → Instr
  | .ia => .stmia | .ib => .stmib | .da => .stmda | .db => .stmdb

/-- The address of the k-th of some words from `start` on (45_block_data_transfer.md R261). -/
def wordAddr (start : Word) (k : Nat) : Word := start + 4#32 * BitVec.ofNat 32 k

/-- The spellings and modes that 45_block_data_transfer.md R278 admits. -/
def State.BlockAdmits (s : State) (load hat wb : Bool) (rn : RegNum) (list : BitVec 16) : Prop :=
  rn ≠ 15#4 ∧ list ≠ 0#16 ∧ (load = true → wb = true → list.getLsbD rn.toNat = false) ∧
  (hat = true → load = false ∨ list.getLsbD 15 = false → s.isPrivileged = true ∧ wb = false) ∧
  (hat = true → load = true → list.getLsbD 15 = true → s.cpsr.mode ≠ .usr32)

/-- The value of a listed register as STM stores it, an undefined base apart: R15 is A + 12, with the PSR bits in a 26-bit mode; with S the
others are those of the user bank (45_block_data_transfer.md R265, R270, R277). -/
def State.blockWord (s : State) (hat : Bool) (i : RegNum) : Word :=
  if i = 15#4 then (if s.is26 then psrWord26 s.cpsr (s.pc + 12) else s.pc + 12) else if hat then s.xu i else s.x i

/-- Of memory only the `n` words from `start` on are stored: every other byte is as it was, and those words and no others are added to
the words that the program has stored (log 13). -/
def State.StoresWords (s t : State) (start : Word) (n : Nat) : Prop :=
  (∀ a : Nat, (∀ k < n, a < (wordAddr start k).toNat ∨ (wordAddr start k).toNat + 4 ≤ a) → t.byteAt a = s.byteAt a) ∧
  ∀ a : Nat, a ∈ t.storedWords ↔ a ∈ s.storedWords ∨ ∃ k < n, a = (wordAddr start k).toNat

/-- The words of a block transfer are reachable, and the memory manager lets them through. -/
def State.BlockReaches (s : State) (start : Word) (n : Nat) (dir : AccessDir) : Prop :=
  ∀ k < n, s.Reaches false (wordAddr start k) ∧ s.aborts (wordAddr start k) .word dir s.priv = false

/-! ### Runs -/

/-- `n` steps lead from `s` to `t`. -/
def StepsTo : Nat → State → State → Prop
  | 0, s, t => s = t
  | n + 1, s, t => ∃ u, step s = .next u ∧ StepsTo n u t

end Sys2Proof.Machine
end

