-- ==== Sys2Proof/WellFormed.lean ====
section
/-! DEFINITION. Which instructions exist on which processor: the instructions that some word of 30_encoding.md
stands for on a given VARIANT, and the patterns of the words that trap and of the words that are unallocated. -/

namespace Sys2Proof

/-- The undefined-instruction patterns of 30_encoding.md R116: `xxxx0001 … 1yy1yyyy` on ARM 2 only, and
`xxxx011y … yyy1yyyy` on every processor. -/
def undefinedPattern (v : Variant) (w : Word) : Bool :=
  (v == .arm2 && w.extractLsb' 24 4 == 0b0001#4 && w.getLsbD 7 && w.getLsbD 4)
    || (w.extractLsb' 25 3 == 0b011#3 && w.getLsbD 4)

/-- The SWP pattern: bits 27..23 = 00010, 21..20 = 00, 11..8 = 0000, 7..4 = 1001 (30_encoding.md R113). -/
def swpPattern (w : Word) : Bool :=
  w.extractLsb' 23 5 == 0b00010#5 && w.extractLsb' 20 2 == 0b00#2 && w.extractLsb' 8 4 == 0b0000#4
    && w.extractLsb' 4 4 == 0b1001#4

/-- The aaaa values of MSR that are not reserved (49_status_transfer_and_undefined.md R334). -/
def msrPartPattern (w : Word) : Bool :=
  w.extractLsb' 16 4 == 0b0001#4 || w.extractLsb' 16 4 == 0b1000#4 || w.extractLsb' 16 4 == 0b1001#4

/-- The three bitmaps of 30_encoding.md R114: MSR register form, MSR immediate form and MRS. -/
def statusTransferPattern (w : Word) : Bool :=
  (w.extractLsb' 23 5 == 0b00010#5 && w.extractLsb' 20 2 == 0b10#2 && msrPartPattern w
      && w.extractLsb' 4 12 == 0b111100000000#12)
    || (w.extractLsb' 23 5 == 0b00110#5 && w.extractLsb' 20 2 == 0b10#2 && msrPartPattern w
      && w.extractLsb' 12 4 == 0b1111#4)
    || (w.extractLsb' 23 5 == 0b00010#5 && w.extractLsb' 16 6 == 0b001111#6 && w.extractLsb' 0 12 == 0#12)

/-- The unallocated spaces U1 to U6 of 30_encoding.md R118. -/
def unallocatedPattern (v : Variant) (w : Word) : Bool :=
  -- U1
  (w.extractLsb' 24 4 == 0b0000#4 && w.getLsbD 7 && w.getLsbD 4 && w.extractLsb' 5 2 != 0b00#2)
    -- U2
    || (w.extractLsb' 22 6 == 0b000001#6 && w.extractLsb' 4 4 == 0b1001#4)
    -- U3
    || (w.extractLsb' 23 5 == 0b00001#5 && w.extractLsb' 4 4 == 0b1001#4 && !v.hasLongMultiply)
    -- U4
    || (w.extractLsb' 24 4 == 0b0001#4 && w.getLsbD 7 && w.getLsbD 4 && v != .arm2 && !swpPattern w)
    -- U5
    || (w.extractLsb' 26 2 == 0b00#2 && w.extractLsb' 23 2 == 0b10#2 && !w.getLsbD 20
      && !(!w.getLsbD 25 && w.getLsbD 7 && w.getLsbD 4) && !(v.isArm6Plus && statusTransferPattern w))
    -- U6
    || (w.extractLsb' 25 3 == 0b110#3 && !w.getLsbD 24 && !w.getLsbD 21)

/-- The instructions of processor `v`: a compare whose Rd field is 1111 is the P form (41_data_processing.md
R190); long multiplies, swaps and status transfers exist on the processors of 00_scope.md R5; a word stands under
`undefined` or `unallocated` when it matches those patterns. -/
def WellFormed (v : Variant) : Instr → Bool
  | .tst _ sbz _ _ | .teq _ sbz _ _ | .cmp _ sbz _ _ | .cmn _ sbz _ _ => sbz != 15#4
  | .umull .. | .umlal .. | .smull .. | .smlal .. => v.hasLongMultiply
  | .swp .. | .swpb .. => v.hasSwp
  | .mrs .. | .msrReg .. | .msrImm .. => v.isArm6Plus
  | .undefined w => undefinedPattern v w
  | .unallocated w => unallocatedPattern v w
  | .and .. | .eor .. | .sub .. | .rsb .. | .add .. | .adc .. | .sbc .. | .rsc .. | .orr .. | .mov ..
  | .bic .. | .mvn .. | .tstp .. | .teqp .. | .cmpp .. | .cmnp .. | .b .. | .bl .. | .mul .. | .mla ..
  | .ldr .. | .ldrb .. | .str .. | .strb .. | .ldrt .. | .ldrbt .. | .strt .. | .strbt ..
  | .ldmia .. | .ldmib .. | .ldmda .. | .ldmdb .. | .stmia .. | .stmib .. | .stmda .. | .stmdb ..
  | .swi .. | .cdp .. | .ldc .. | .stc .. | .mcr .. | .mrc .. => true

end Sys2Proof
end

