-- ==== Sys2Proof/Certificates/Slice0/Obligations.lean ====
section
/-! DEFINITION. The statements for the provers. Each names the rules of spec/ it formalises; what is the model's own choice says so
and names its log entry. -/

open Sys2Proof Sys2Proof.Machine

/-! ### Encoding -/

/-- Words written out from the bitmaps of 30_encoding.md R102 to R114 decode to the instruction they stand for. -/
def Obligations.DecodedWords : Prop :=
  decode .arm7dm 0b1110_00_0_0100_1_0001_0000_00000_00_0_0010#32 = .add .al true 0#4 1#4 (.shiftImm 2#4 .lsl 0#5) ∧
  decode .arm7dm 0b0000_00_0_0100_1_0001_0000_0011_0_00_1_0010#32 = .add .eq true 0#4 1#4 (.shiftReg 2#4 .lsl 3#4) ∧
  decode .arm7dm 0b1110_00_1_1001_1_1111_1111_0001_00000010#32 = .teqp .al 15#4 (.imm 1#4 2#8) ∧
  decode .arm7dm 0b0001_101_1_000000000000001111111110#32 = .bl .ne 0x0003FE#24 ∧
  decode .arm7dm 0b1110_0000_001_0_0000_0011_0010_1001_0001#32 = .mla .al false 0#4 3#4 2#4 1#4 ∧
  decode .arm7dm 0b1110_0000_110_0_0001_0000_0011_1001_0010#32 = .smull .al false 1#4 0#4 3#4 2#4 ∧
  decode .arm7dm 0b1110_01_1_1_1_0_1_1_0001_0000_00001_00_0_0010#32 =
    .ldr .al .preWriteBack true 1#4 0#4 (.shifted 2#4 .lsl 1#5) ∧
  decode .arm7dm 0b1110_01_0_0_1_0_1_1_0001_0000_000000000000#32 = .ldrt .al true 1#4 0#4 (.imm 0#12) ∧
  decode .arm7dm 0b1110_100_1_1_1_0_0_0101_0000000000001111#32 = .stmib .al true false 5#4 0x000F#16 ∧
  decode .arm7dm 0b0001_1111_000001000000000011000000#32 = .swi .ne 0x0400C0#24 ∧
  decode .arm7dm 0b1110_1110_0001_1001_0000_0001_011_0_1111#32 = .cdp .al 1#4 9#4 0#4 1#4 3#3 15#4 ∧
  decode .arm7dm 0b1110_110_1_0_1_1_0_0001_0000_0001_00001000#32 = .stc .al .preWriteBack false true 1#4 0#4 1#4 8#8 ∧
  decode .arm7dm 0b1110_00010_1_00_0010_0000_0000_1001_0001#32 = .swpb .al 2#4 0#4 1#4 ∧
  decode .arm7dm 0b1110_00110_0_10_1000_1111_0010_00001111#32 = .msrImm .al false .flg 2#4 15#8

/-- Decoding an encoded instruction of a processor gives it back, every operand at every value (30_encoding.md R102 to R118). -/
def Obligations.DecodeOfEncode : Prop := ∀ v i, WellFormed v i = true → decode v (encode i) = i

/-- Every word reaches exactly one leaf (30_encoding.md R117): it decodes to an instruction of the processor, whose encoding is that
word, so no bit of the word is dropped. -/
def Obligations.EncodeOfDecode : Prop := ∀ v w, WellFormed v (decode v w) = true ∧ encode (decode v w) = w

/-- Exactly the words of the two patterns of 30_encoding.md R116 are undefined instructions, and executing one whose condition passes takes
the undefined-instruction exception, the saved address A + 4 (49_status_transfer_and_undefined.md R340). The frame's clause on the stored
words is the model's reading of 20_memory.md section 8 (log 13). That R14 keeps the whole saved address past the top of a 26-bit mode on
`arm6plus` is log 30. -/
def Obligations.UndefinedWordsTrap : Prop :=
  (∀ v w, decode v w = .undefined w ↔
    (v = .arm2 ∧ w.extractLsb' 24 4 = 0b0001#4 ∧ w.getLsbD 7 = true ∧ w.getLsbD 4 = true) ∨
    (w.extractLsb' 25 3 = 0b011#3 ∧ w.getLsbD 4 = true)) ∧
  ∀ w s, condPassed s.cpsr (condOfBits (w.extractLsb' 28 4)) = true →
    ∃ t, exec (.undefined w) s = .next t ∧ Entered s .undefinedInstruction (s.pc + 4) t

/-- Exactly the words of the spaces U1 to U6 are unallocated, and executing one is refused (30_encoding.md R118). That it is refused
whatever its condition is the spec's decision D16, which 40_condition_codes.md R141 marks as its own (log 22). -/
def Obligations.UnallocatedWordsStop : Prop :=
  (∀ v w, decode v w = .unallocated w ↔
    (w.extractLsb' 24 4 = 0b0000#4 ∧ w.getLsbD 7 = true ∧ w.getLsbD 4 = true ∧ w.extractLsb' 5 2 ≠ 0b00#2) ∨
    (w.extractLsb' 22 6 = 0b000001#6 ∧ w.extractLsb' 4 4 = 0b1001#4) ∨
    (w.extractLsb' 23 5 = 0b00001#5 ∧ w.extractLsb' 4 4 = 0b1001#4 ∧ v ≠ .arm7dm) ∨
    (w.extractLsb' 24 4 = 0b0001#4 ∧ w.getLsbD 7 = true ∧ w.getLsbD 4 = true ∧ v ≠ .arm2 ∧ swpPattern w = false) ∨
    (w.extractLsb' 26 2 = 0b00#2 ∧ w.extractLsb' 23 2 = 0b10#2 ∧ w.getLsbD 20 = false ∧
      ¬ (w.getLsbD 25 = false ∧ w.getLsbD 7 = true ∧ w.getLsbD 4 = true) ∧
      ¬ (v.isArm6Plus = true ∧ statusTransferPattern w = true)) ∨
    (w.extractLsb' 25 3 = 0b110#3 ∧ w.getLsbD 24 = false ∧ w.getLsbD 21 = false)) ∧
  ∀ w s, exec (.unallocated w) s = .refused .unallocatedEncoding

/-! ### The step -/

/-- With no enabled request, the fetch let through and the word not one the program has stored, a step executes the instruction that the
word at the pc decodes to, and no other: nothing is added around it but that one sample of the inputs is spent. That one sample of the
request inputs is spent by each step is the model's form of the schedule (log 11); the bar on stored words is R88 as read in log 13. -/
def Obligations.StepRunsTheDecodedInstruction : Prop :=
  ∀ s i, s.inputsNow.reset = false → (s.inputsNow.fiq = true → s.cpsr.f = true) → (s.inputsNow.irq = true → s.cpsr.i = true) →
    s.aborts s.pc .word .read s.priv = false → wordBase s.pc ∉ s.storedWords →
    decode s.variant (s.wordAt s.pc) = i → step s = exec i { s with inputs := s.inputs.rest }

/-- What comes before the instruction at P: FIQ when F = 0, else IRQ when I = 0, else the abort of its fetch; each enters its exception with
P + 4 (60_exceptions.md R356, R360 to R364). The schedule of inputs is the model's form (log 11). The frame's clause on the stored words is
the model's reading of 20_memory.md section 8 (log 13). That R14 keeps the whole saved address past the top of a 26-bit mode on `arm6plus`
is log 30. -/
def Obligations.StepTakesInterrupts : Prop :=
  (∀ s, s.inputsNow.reset = false → s.inputsNow.fiq = true → s.cpsr.f = false →
    ∃ t, step s = .next t ∧ Entered s.inputsTaken .fiq (s.pc + 4) t) ∧
  (∀ s, s.inputsNow.reset = false → (s.inputsNow.fiq = true → s.cpsr.f = true) → s.inputsNow.irq = true → s.cpsr.i = false →
    ∃ t, step s = .next t ∧ Entered s.inputsTaken .irq (s.pc + 4) t) ∧
  (∀ s, s.inputsNow.reset = false → (s.inputsNow.fiq = true → s.cpsr.f = true) → (s.inputsNow.irq = true → s.cpsr.i = true) →
    s.aborts s.pc .word .read s.priv = true →
    ∃ t, step s = .next t ∧ Entered s.inputsTaken .prefetchAbort (s.pc + 4) t)

/-- A reset during a run overrides everything (60_exceptions.md R364): SVC mode, I = F = 1, pc = 0; every register but R14_SVC, every SPSR
but SPSR_svc and memory are unchanged (70_reset_and_hazards.md R400). What R400 calls unspecified is free in the model and not stated here
(log 12). -/
def Obligations.ResetInputOverrides : Prop :=
  ∀ s, s.inputsNow.reset = true → ∃ t, step s = .next t ∧ t.pc = 0#32 ∧ t.cpsr.i = true ∧ t.cpsr.f = true ∧
    t.cpsr.mode = (if s.variant.isArm6Plus then .svc32 else .svc26) ∧ s.SameRegsBut t .svc [14#4] ∧ s.SameBytes t ∧
    t.spsrFiq = s.spsrFiq ∧ t.spsrIrq = s.spsrIrq ∧ t.spsrAbt = s.spsrAbt ∧ t.spsrUnd = s.spsrUnd ∧
    (s.variant.isArm6Plus = false → t.spsrSvc = s.spsrSvc) ∧ t.variant = s.variant ∧ t.memMap = s.memMap

/-- A word that the program has stored is not executed: the step is refused (20_memory.md R88), when no request or abort comes first. The
list of stored words is the model's (log 13). -/
def Obligations.StoredWordIsRefused : Prop :=
  ∀ s, s.inputsNow.reset = false → (s.inputsNow.fiq = true → s.cpsr.f = true) → (s.inputsNow.irq = true → s.cpsr.i = true) →
    s.aborts s.pc .word .read s.priv = false → s.pc.toNat / 4 * 4 ∈ s.storedWords → step s = .refused .selfModifyingCode

/-! ### Conditions -/

/-- `ConditionPassed` (40_condition_codes.md R141): the three top bits of the code choose the test, bit 0 negates it. -/
def Obligations.ConditionPassedByItsBits : Prop :=
  ∀ (p : Cpsr) (cond : BitVec 4), condPassed p (condOfBits cond) =
    (cond.getLsbD 0 ^^
      (match (cond.extractLsb' 1 3).toNat with
       | 0 => p.z
       | 1 => p.c
       | 2 => p.n
       | 3 => p.v
       | 4 => p.c && !p.z
       | 5 => p.n == p.v
       | 6 => p.n == p.v && !p.z
       | _ => true))

/-- An instruction whose condition fails does nothing: the next one is at A + 4 (40_condition_codes.md R141). At the top of the pc's range
it is refused (10_state.md R30). That the top of the range is refused for a failed condition too is the model's reading of R30 (log 14).
-/
def Obligations.FailedConditionDoesNothing : Prop :=
  ∀ i c s, conditionOf i = some c → condPassed s.cpsr c = false →
    (s.pc ≠ s.pcTop → exec i s = .next { s with pc := s.pc + 4 }) ∧ (s.pc = s.pcTop → exec i s = .refused .pcWrap)

/-- An instruction that executes, writes no pc and takes no exception at the top of the pc's range is refused, because it would step past it
(10_state.md R30): every such instruction, its restrictions met and its accesses let through. That an MSR that enters or stays in a 26-bit
mode is refused as `pc-above-64M-in-26bit` first is the model's order (log 26); that the range is that of the mode at the start is its
reading of R30 (log 14). -/
def Obligations.SteppingPastTheTopIsRefused : Prop :=
  ∀ c (s : State), condPassed s.cpsr c = true → s.pc = s.pcTop →
    (∀ (op : DataOp) sf rd rn op2, rd ≠ 15#4 → op.Admits rn op2 → exec (op.instr c sf rd rn op2) s = .refused .pcWrap) ∧
    (∀ (op : TestOp) rn op2, op.op.Admits rn op2 → exec (op.instr c 0#4 rn op2) s = .refused .pcWrap ∧
      (s.is26 = true → exec (op.pInstr c rn op2) s = .refused .pcWrap)) ∧
    (∀ sf rd rn rs rm, rd ≠ rm → rd ≠ 15#4 → rm ≠ 15#4 → rs ≠ 15#4 → exec (.mul c sf rd rn rs rm) s = .refused .pcWrap ∧
      (rn ≠ 15#4 → exec (.mla c sf rd rn rs rm) s = .refused .pcWrap)) ∧
    (∀ sf rh rl rs rm, rh ≠ 15#4 → rl ≠ 15#4 → rm ≠ 15#4 → rs ≠ 15#4 → rh ≠ rl → rh ≠ rm → rl ≠ rm →
      ∀ i ∈ [Instr.umull c sf rh rl rs rm, .umlal c sf rh rl rs rm, .smull c sf rh rl rs rm, .smlal c sf rh rl rs rm],
        exec i s = .refused .pcWrap) ∧
    (∀ byte tForm ix up rn rd off, TransferAdmits byte tForm ix rn rd off → s.Reaches byte (s.transferAddr ix up rn off) →
      (rd ≠ 15#4 → s.aborts (s.transferAddr ix up rn off) (transferSize byte) .read (s.privOf tForm) = false →
        exec (loadInstr byte tForm c ix up rn rd off) s = .refused .pcWrap) ∧
      (s.aborts (s.transferAddr ix up rn off) (transferSize byte) .write (s.privOf tForm) = false →
        exec (storeInstr byte tForm c ix up rn rd off) s = .refused .pcWrap)) ∧
    (∀ m hat wb rn list,
      (s.BlockAdmits true hat wb rn list → list.getLsbD 15 = false →
        s.BlockReaches (blockStart m (s.x rn) (listRegs list).length) (listRegs list).length .read →
        exec (loadMultiple m c hat wb rn list) s = .refused .pcWrap) ∧
      (s.BlockAdmits false hat wb rn list →
        s.BlockReaches (blockStart m (s.x rn) (listRegs list).length) (listRegs list).length .write →
        exec (storeMultiple m c hat wb rn list) s = .refused .pcWrap)) ∧
    (∀ byte rn rd rm, rn ≠ 15#4 → rd ≠ 15#4 → rm ≠ 15#4 → s.Reaches byte (s.x rn) →
      s.aborts (s.x rn) (transferSize byte) .read s.priv = false → s.aborts (s.x rn) (transferSize byte) .write s.priv = false →
      exec (if byte then .swpb c rn rd rm else .swp c rn rd rm) s = .refused .pcWrap) ∧
    (∀ spsr rd, rd ≠ 15#4 → (spsr = true → s.isPrivileged = true) → exec (.mrs c spsr rd) s = .refused .pcWrap) ∧
    (∀ i spsr part v,
      (∃ rm, rm ≠ 15#4 ∧ i = .msrReg c spsr part rm ∧ v = s.x rm) ∨ (∃ r b, i = .msrImm c spsr part r b ∧ v = rotatedImm r b) →
      (if spsr then s.isPrivileged = true else s.MsrAdmits part v) → exec i s = .refused .pcWrap) ∧
    (∀ p st, s.coprocs[p.toNat]'p.isLt = some st →
      (∀ i, (∃ o crn crd q crm, i = .cdp c o crn crd p q crm) ∨ (∃ o crn rd q crm, rd ≠ 15#4 ∧ i = .mcr c o crn rd p q crm) ∨
          (∃ o crn rd q crm, i = .mrc c o crn rd p q crm) →
        (∃ a ∈ st.accepts, encode i &&& a.mask = a.value) → exec i s = .refused .pcWrap) ∧
      (∀ ix up long rn crd o, (ix ≠ .pre → rn ≠ 15#4) →
        let idx := if up then s.readRn rn + 4#32 * o.zeroExtend 32 else s.readRn rn - 4#32 * o.zeroExtend 32
        let addr := if ix = .post then s.readRn rn else idx
        (∀ w, w = encode (.ldc c ix up long rn crd p o) → (∃ a ∈ st.accepts, w &&& a.mask = a.value) →
          s.BlockReaches addr (Config.coprocMoreWords p w st + 1) .read →
          exec (.ldc c ix up long rn crd p o) s = .refused .pcWrap) ∧
        (∀ w, w = encode (.stc c ix up long rn crd p o) → (∃ a ∈ st.accepts, w &&& a.mask = a.value) →
          s.BlockReaches addr (Config.coprocMoreWords p w st + 1) .write →
          exec (.stc c ix up long rn crd p o) s = .refused .pcWrap)))

/-! ### Data processing -/

/-- AND, EOR, SUB, RSB, ADD, ADC, SBC, RSC, ORR, MOV, BIC, MVN with a destination other than R15: the value of 41_data_processing.md R160
in Rd; with S = 0 no flag changes (R162), with S = 1 the flags of R161; nothing else changes but the pc. The carry and overflow formulas
rest on R159, which the spec takes from general knowledge. -/
def Obligations.DataProcessingResult : Prop :=
  ∀ (op : DataOp) c sf rd rn op2 s, s.Ready c → rd ≠ 15#4 → op.Admits rn op2 →
    ∃ t, exec (op.instr c sf rd rn op2) s = .next t ∧
      t.x rd = op.value (s.readRn rn) (s.shifterOperand op2).val s.cpsr.c ∧
      t.cpsr = (if sf then op.flags s.cpsr (s.readRn rn) (s.shifterOperand op2) else s.cpsr) ∧ s.StepsOn t [rd]

/-- TST, TEQ, CMP, CMN with dddd = 0000: the flags of 41_data_processing.md R161, whatever their S bit; no register changes. The carry and
overflow formulas rest on R159, which the spec takes from general knowledge. -/
def Obligations.ComparisonFlags : Prop :=
  ∀ (op : TestOp) c rn op2 s, s.Ready c → op.op.Admits rn op2 →
    ∃ t, exec (op.instr c 0#4 rn op2) s = .next t ∧
      t.cpsr = op.op.flags s.cpsr (s.readRn rn) (s.shifterOperand op2) ∧ s.StepsOn t []

/-- After `CMP a, b` the condition codes compare a with b (40_condition_codes.md R144). The spec infers these meanings in R144 from the
names of the conditions and from R159. -/
def Obligations.ConditionsAfterCompare : Prop :=
  ∀ c rn op2 s t, s.Ready c → exec (.cmp c 0#4 rn op2) s = .next t →
    let a := s.readRn rn
    let b := (s.shifterOperand op2).val
    (condPassed t.cpsr .eq = decide (a = b)) ∧ (condPassed t.cpsr .cs = decide (b.toNat ≤ a.toNat)) ∧
    (condPassed t.cpsr .cc = decide (a.toNat < b.toNat)) ∧ (condPassed t.cpsr .hi = decide (b.toNat < a.toNat)) ∧
    (condPassed t.cpsr .ls = decide (a.toNat ≤ b.toNat)) ∧ (condPassed t.cpsr .ge = decide (b.toInt ≤ a.toInt)) ∧
    (condPassed t.cpsr .lt = decide (a.toInt < b.toInt)) ∧ (condPassed t.cpsr .gt = decide (b.toInt < a.toInt)) ∧
    (condPassed t.cpsr .le = decide (a.toInt ≤ b.toInt))

/-- TSTP, TEQP, CMPP, CMNP in a 26-bit mode write the PSR bits of the result, all eight in a privileged mode, N, Z, C, V in user mode, and
change no register (41_data_processing.md R190); in a 32-bit mode they are refused. That the whole of the 26-bit PSR is these eight bits is
the spec's own reading (90_conflicts.md C6), and the refusal is the treatment of the tag `p-form-in-32bit` (93_implementation_defined.md
part 1, log 15). -/
def Obligations.PFormsWriteThePsr : Prop :=
  (∀ (op : TestOp) c rn op2 s, s.Ready c → op.op.Admits rn op2 → s.is26 = true →
    ∃ t, exec (op.pInstr c rn op2) s = .next t ∧
      WrotePsr26 s.cpsr t.cpsr (op.op.value (s.readRn rn) (s.shifterOperand op2).val s.cpsr.c) ∧ s.StepsOn t []) ∧
  (∀ (op : TestOp) c rn op2 s, condPassed s.cpsr c = true → op.op.Admits rn op2 → s.is26 = false →
    exec (op.pInstr c rn op2) s = .refused .pFormIn32bit)

/-- The data processing instructions with Rd = R15 and S = 0 write the pc alone, masked for the mode (41_data_processing.md R163, R164).
The frame's clause on the stored words is the model's reading of 20_memory.md section 8 (log 13). -/
def Obligations.DataProcessingToPc : Prop :=
  ∀ (op : DataOp) c rn op2 s, condPassed s.cpsr c = true → op.Admits rn op2 →
    ∃ t, exec (op.instr c false 15#4 rn op2) s = .next t ∧ s.Jumps t [] ∧ t.cpsr = s.cpsr ∧
      t.pc = op.value (s.readRn rn) (s.shifterOperand op2).val s.cpsr.c &&&
        (if s.is26 then 0x03FFFFFC#32 else 0xFFFFFFFC#32)

/-- The data processing instructions with Rd = R15 and S = 1 write the pc and the status together: from the result in a 26-bit mode, the
status from the SPSR in a 32-bit mode (41_data_processing.md R163, R164); in usr_32, from an SPSR that holds no defined mode, and from one
that holds a 26-bit mode to a pc above 64 MBytes they are refused (10_state.md R39; the last is the spec's decision D6). The frame's clause on the stored
words is the model's reading of 20_memory.md section 8 (log 13). -/
def Obligations.DataProcessingReturns : Prop :=
  (∀ (op : DataOp) c rn op2 s, condPassed s.cpsr c = true → op.Admits rn op2 →
    s.CanReturn (op.value (s.readRn rn) (s.shifterOperand op2).val s.cpsr.c) →
    ∃ t, exec (op.instr c true 15#4 rn op2) s = .next t ∧ s.Jumps t [] ∧
      s.Returned t (op.value (s.readRn rn) (s.shifterOperand op2).val s.cpsr.c)) ∧
  (∀ (op : DataOp) c rn op2 s r, condPassed s.cpsr c = true → op.Admits rn op2 →
    s.ReturnRefused (op.value (s.readRn rn) (s.shifterOperand op2).val s.cpsr.c) r →
    exec (op.instr c true 15#4 rn op2) s = .refused r)

/-- Where data processing stops: R15 in a register-specified shift (41_data_processing.md R152), and a field that should be 0000 and is not
(R191). Where both hold of one instruction, the name of the refusal is the model's order of the checks (log 15). -/
def Obligations.DataProcessingRefused : Prop :=
  (∀ (op : DataOp) c sf rd rn rm kind rc s, condPassed s.cpsr c = true → (op.readsRn = false → rn = 0#4) →
    rn = 15#4 ∨ rm = 15#4 ∨ rc = 15#4 →
    exec (op.instr c sf rd rn (.shiftReg rm kind rc)) s = .refused .r15WithRegisterShift) ∧
  (∀ (op : TestOp) c rn rm kind rc s, condPassed s.cpsr c = true → rn = 15#4 ∨ rm = 15#4 ∨ rc = 15#4 →
    exec (op.instr c 0#4 rn (.shiftReg rm kind rc)) s = .refused .r15WithRegisterShift ∧
    exec (op.pInstr c rn (.shiftReg rm kind rc)) s = .refused .r15WithRegisterShift) ∧
  (∀ (op : DataOp) c sf rd sbz op2 s, condPassed s.cpsr c = true → op.readsRn = false → sbz ≠ 0#4 →
    exec (op.instr c sf rd sbz op2) s = .refused .shouldBeZero) ∧
  (∀ (op : TestOp) c sbz rn op2 s, condPassed s.cpsr c = true → sbz ≠ 0#4 →
    exec (op.instr c sbz rn op2) s = .refused .shouldBeZero)

/-! ### The shifter -/

/-- LSL and LSR by n, 0 to 255 (41_data_processing.md R153, R154): the product and the quotient by 2^n, narrowed, and as carry the last bit
shifted out; n = 0 is no shift. The amount is the 5-bit field, where 0 means 32 for LSR, or the bottom byte of Rc. Amounts of 32 and more
(41_data_processing.md section 2) and a zero amount in a register (R157) are what the spec marks there as its own inference. -/
def Obligations.LogicalShifts : Prop :=
  (∀ m n c, 0 < n → n < 256 →
    (shiftLsl m n c).val.toNat = m.toNat * 2 ^ n % 2 ^ 32 ∧ (shiftLsl m n c).c = decide (m.toNat * 2 ^ n / 2 ^ 32 % 2 = 1) ∧
    (shiftLsr m n c).val.toNat = m.toNat / 2 ^ n ∧ (shiftLsr m n c).c = decide (m.toNat / 2 ^ (n - 1) % 2 = 1)) ∧
  (∀ m c, shiftLsl m 0 c = ⟨m, c⟩ ∧ shiftLsr m 0 c = ⟨m, c⟩) ∧
  (∀ (s : State) rm amount, s.shifterOperand (.shiftImm rm .lsl amount) = shiftLsl (s.readRm rm) amount.toNat s.cpsr.c ∧
    s.shifterOperand (.shiftImm rm .lsr amount) =
      shiftLsr (s.readRm rm) (if amount = 0#5 then 32 else amount.toNat) s.cpsr.c) ∧
  (∀ (s : State) rm rc, s.shifterOperand (.shiftReg rm .lsl rc) = shiftLsl (s.readRm rm) ((s.x rc).extractLsb' 0 8).toNat s.cpsr.c ∧
    s.shifterOperand (.shiftReg rm .lsr rc) = shiftLsr (s.readRm rm) ((s.x rc).extractLsb' 0 8).toNat s.cpsr.c)

/-- ASR by n, 0 to 255 (41_data_processing.md R155): the signed quotient by 2^n rounded down, and as carry the last bit shifted out; n = 0 is
no shift. The field value 0 means 32; Rc gives its bottom byte. Register amounts of 32 and more (41_data_processing.md section 2) and a
zero amount in a register (R157) are what the spec marks there as its own inference. -/
def Obligations.ArithmeticShift : Prop :=
  (∀ m n c, 0 < n → n < 256 →
    (shiftAsr m n c).val.toInt = m.toInt / 2 ^ n ∧ (shiftAsr m n c).c = decide (m.toInt / 2 ^ (n - 1) % 2 = 1)) ∧
  (∀ m c, shiftAsr m 0 c = ⟨m, c⟩) ∧
  (∀ (s : State) rm amount, s.shifterOperand (.shiftImm rm .asr amount) =
    shiftAsr (s.readRm rm) (if amount = 0#5 then 32 else amount.toNat) s.cpsr.c) ∧
  (∀ (s : State) rm rc, s.shifterOperand (.shiftReg rm .asr rc) =
    shiftAsr (s.readRm rm) ((s.x rc).extractLsb' 0 8).toNat s.cpsr.c)

/-- ROR by n, 0 to 255, and RRX (41_data_processing.md R156): bit i of the result is bit i + n of the operand, modulo 32, and the carry is the
bit that ends at the top; RRX is the field value 0. Register amounts of 32 and more (41_data_processing.md section 2) and a zero amount in
a register (R157) are what the spec marks there as its own inference. -/
def Obligations.Rotations : Prop :=
  (∀ m n c, 0 < n → n < 256 → (∀ i < 32, (shiftRor m n c).val.getLsbD i = m.getLsbD ((i + n) % 32)) ∧
    (shiftRor m n c).c = (shiftRor m n c).val.getLsbD 31) ∧
  (∀ m c, shiftRor m 0 c = ⟨m, c⟩) ∧
  (∀ m c, (shiftRrx m c).val.toNat = m.toNat / 2 + 2 ^ 31 * c.toNat ∧ (shiftRrx m c).c = decide (m.toNat % 2 = 1)) ∧
  (∀ (s : State) rm amount, s.shifterOperand (.shiftImm rm .ror amount) =
    if amount = 0#5 then shiftRrx (s.readRm rm) s.cpsr.c else shiftRor (s.readRm rm) amount.toNat s.cpsr.c) ∧
  (∀ (s : State) rm rc, s.shifterOperand (.shiftReg rm .ror rc) =
    shiftRor (s.readRm rm) ((s.x rc).extractLsb' 0 8).toNat s.cpsr.c)

/-- The immediate form (30_encoding.md R120, 41_data_processing.md R158): b rotated right by 2r; with r = 0 the carry is unchanged, else it is
bit 31 of the constant. -/
def Obligations.RotatedImmediate : Prop :=
  (∀ (r : BitVec 4) (b : BitVec 8), (rotatedImm r b).toNat =
    if r = 0#4 then b.toNat else b.toNat / 2 ^ (2 * r.toNat) + b.toNat * 2 ^ (32 - 2 * r.toNat) % 2 ^ 32) ∧
  ∀ (s : State) r b, (s.shifterOperand (.imm r b)).val = rotatedImm r b ∧
    (s.shifterOperand (.imm r b)).c = if r = 0#4 then s.cpsr.c else (rotatedImm r b).getLsbD 31

/-- What R15 reads as (10_state.md R31, R32): A + 8 as Rn, with the PSR bits around it as Rm, A + 12 with them for a block store. -/
def Obligations.ReadingR15 : Prop :=
  ∀ s : State,
    (s.is26 = false → s.readRn 15#4 = s.pc + 8#32 ∧ s.readRm 15#4 = s.pc + 8#32 ∧ s.r15Stm = s.pc + 12#32) ∧
    (s.is26 = true → s.readRn 15#4 = (s.pc + 8#32) &&& 0x03FFFFFC#32 ∧
      ∀ v off, (v = s.readRm 15#4 ∧ off = 8#32) ∨ (v = s.r15Stm ∧ off = 12#32) →
        v &&& 0x03FFFFFC#32 = (s.pc + off) &&& 0x03FFFFFC#32 ∧ v.getLsbD 31 = s.cpsr.n ∧ v.getLsbD 30 = s.cpsr.z ∧
        v.getLsbD 29 = s.cpsr.c ∧ v.getLsbD 28 = s.cpsr.v ∧ v.getLsbD 27 = s.cpsr.i ∧ v.getLsbD 26 = s.cpsr.f ∧
        v.extractLsb' 0 2 = s.cpsr.mode.toBits.extractLsb' 0 2)

/-! ### Branches -/

/-- B and BL: the pc is A + 8 + 4 * offset, modulo the width of the pc; BL writes A + 4 to R14, with the PSR bits in a 26-bit mode; no
flag changes (42_branch.md R201, R202). That BL saves A + 4 is the choice of 90_conflicts.md C3. The frame's clause on the stored words is
the model's reading of 20_memory.md section 8 (log 13). -/
def Obligations.Branches : Prop :=
  ∀ c (o : BitVec 24) s, condPassed s.cpsr c = true →
    (∃ t, exec (.b c o) s = .next t ∧ s.Jumps t [] ∧ t.cpsr = s.cpsr ∧
      (t.pc.toNat : Int) = ((s.pc.toNat : Int) + 8 + 4 * o.toInt) % (if s.is26 then 2 ^ 26 else 2 ^ 32)) ∧
    (∃ t, exec (.bl c o) s = .next t ∧ s.Jumps t [14#4] ∧ t.cpsr = s.cpsr ∧
      (t.pc.toNat : Int) = ((s.pc.toNat : Int) + 8 + 4 * o.toInt) % (if s.is26 then 2 ^ 26 else 2 ^ 32) ∧
      t.x 14#4 = if s.is26 then psrWord26 s.cpsr (s.pc + 4) else s.pc + 4)

/-! ### Multiplies -/

/-- MUL and MLA: the low 32 bits of the product and sum in Rd; with S, N and Z on the result and V unaffected, C being free; with S = 0 no
flag changes (43_multiply.md R211 to R213). That the value is the low 32 bits is the spec's inference in R210, and that the nnnn field of
MUL is ignored its decision D16 (log 25). -/
def Obligations.MultiplyResult : Prop :=
  ∀ c sf rd rn rs rm s, s.Ready c → rd ≠ rm → rd ≠ 15#4 → rm ≠ 15#4 → rs ≠ 15#4 →
    (∃ t, exec (.mul c sf rd rn rs rm) s = .next t ∧ s.StepsOn t [rd] ∧
      (t.x rd).toNat = (s.x rm).toNat * (s.x rs).toNat % 2 ^ 32 ∧ (sf = false → t.cpsr = s.cpsr) ∧
      (sf = true → t.cpsr = { s.cpsr with n := (t.x rd).getLsbD 31, z := decide (t.x rd = 0#32), c := t.cpsr.c })) ∧
    (rn ≠ 15#4 → ∃ t, exec (.mla c sf rd rn rs rm) s = .next t ∧ s.StepsOn t [rd] ∧
      (t.x rd).toNat = ((s.x rm).toNat * (s.x rs).toNat + (s.x rn).toNat) % 2 ^ 32 ∧ (sf = false → t.cpsr = s.cpsr) ∧
      (sf = true → t.cpsr = { s.cpsr with n := (t.x rd).getLsbD 31, z := decide (t.x rd = 0#32), c := t.cpsr.c }))

/-- UMULL, UMLAL, SMULL, SMLAL: Rh:Rl is the exact product, and for the accumulating forms the old Rh:Rl added, modulo 2^64; with S, N and
Z on the 64 bits, C and V being free; with S = 0 no flag changes (43_multiply.md R216 to R220). That the accumulating forms add the old
Rh:Rl modulo 2^64 is the spec's inference in R215. -/
def Obligations.LongMultiplyResult : Prop :=
  ∀ (i : Instr) c sf rh rl rs rm s (p : Int), s.Ready c → rh ≠ 15#4 → rl ≠ 15#4 → rm ≠ 15#4 → rs ≠ 15#4 → rh ≠ rl → rh ≠ rm →
    rl ≠ rm →
    (i = .umull c sf rh rl rs rm ∧ p = (s.x rm).toNat * (s.x rs).toNat) ∨
    (i = .umlal c sf rh rl rs rm ∧ p = (s.x rm).toNat * (s.x rs).toNat + (s.x rh).toNat * 2 ^ 32 + (s.x rl).toNat) ∨
    (i = .smull c sf rh rl rs rm ∧ p = (s.x rm).toInt * (s.x rs).toInt) ∨
    (i = .smlal c sf rh rl rs rm ∧ p = (s.x rm).toInt * (s.x rs).toInt + (s.x rh).toNat * 2 ^ 32 + (s.x rl).toNat) →
    ∃ t, exec i s = .next t ∧ s.StepsOn t [rh, rl] ∧
      ((t.x rh).toNat * 2 ^ 32 + (t.x rl).toNat : Int) = p % 2 ^ 64 ∧ (sf = false → t.cpsr = s.cpsr) ∧
      (sf = true → t.cpsr = { s.cpsr with
        n := (t.x rh).getLsbD 31, z := decide (p % 2 ^ 64 = 0), c := t.cpsr.c, v := t.cpsr.v })

/-- Where the multiplies stop (43_multiply.md R214, R221): MUL and MLA with Rd = Rm, or with R15; a long multiply with R15, or with
Rh, Rl and Rm not all different. Where two of these hold of one instruction, the name of the refusal is the model's order of the checks
(log 15). -/
def Obligations.MultiplyRefused : Prop :=
  ∀ c sf rd rn rs rm s, condPassed s.cpsr c = true →
    (rd = rm → exec (.mul c sf rd rn rs rm) s = .refused .mulRdEqualsRm ∧
      exec (.mla c sf rd rn rs rm) s = .refused .mulRdEqualsRm) ∧
    (rd ≠ rm → rd = 15#4 ∨ rm = 15#4 ∨ rs = 15#4 → exec (.mul c sf rd rn rs rm) s = .refused .mulR15) ∧
    (rd ≠ rm → rd = 15#4 ∨ rm = 15#4 ∨ rs = 15#4 ∨ rn = 15#4 → exec (.mla c sf rd rn rs rm) s = .refused .mulR15) ∧
    ∀ i ∈ [Instr.umull c sf rd rn rs rm, .umlal c sf rd rn rs rm, .smull c sf rd rn rs rm, .smlal c sf rd rn rs rm],
      (rd = 15#4 ∨ rn = 15#4 ∨ rs = 15#4 ∨ rm = 15#4 → exec i s = .refused .mullR15) ∧
      (¬ (rd = 15#4 ∨ rn = 15#4 ∨ rs = 15#4 ∨ rm = 15#4) → rd = rn ∨ rd = rm ∨ rn = rm →
        exec i s = .refused .mullRegOverlap)

/-! ### Single data transfers -/

/-- LDR, LDRB, LDRT, LDRBT with Rd other than R15: the little-endian word, or the byte with zeros above it, in Rd; the base written back
when the addressing says so; no flag changes (44_single_data_transfer.md R234, R237, R238, R241, R242). The byte order is the spec's
decision D1, the zero extension its D11. -/
def Obligations.SingleLoadResult : Prop :=
  ∀ byte tForm c ix up rn rd off s, s.Ready c → TransferAdmits byte tForm ix rn rd off → rd ≠ 15#4 →
    s.Reaches byte (s.transferAddr ix up rn off) →
    s.aborts (s.transferAddr ix up rn off) (transferSize byte) .read (s.privOf tForm) = false →
    ∃ t, exec (loadInstr byte tForm c ix up rn rd off) s = .next t ∧
      (t.x rd).toNat = (if byte then (s.byteAt (s.transferAddr ix up rn off).toNat).toNat
        else s.leWord (s.transferAddr ix up rn off).toNat) ∧
      (ix ≠ .pre → t.x rn = s.transferIdx up rn off) ∧ t.cpsr = s.cpsr ∧
      s.StepsOn t (if ix = .pre then [rd] else [rd, rn])

/-- The address of a single data transfer (44_single_data_transfer.md R231, R232): the base plus or minus the offset, or the base itself when
post-indexed; R15 as base is A + 8 without the PSR bits (R247). -/
def Obligations.SingleTransferAddress : Prop :=
  (∀ (s : State) ix up rn off, s.transferIdx up rn off = (if up then s.readRn rn + s.offsetValue off else s.readRn rn - s.offsetValue off) ∧
    s.transferAddr ix up rn off = (if ix = .post then s.readRn rn else s.transferIdx up rn off)) ∧
  (∀ (s : State) (o : BitVec 12), (s.offsetValue (.imm o)).toNat = o.toNat) ∧
  (∀ (s : State) rm kind amount, rm ≠ 15#4 →
    s.offsetValue (.shifted rm kind amount) = (s.shifterOperand (.shiftImm rm kind amount)).val)

/-- LDR and LDRT of R15 write the pc alone, masked for the mode; the PSR is not modified (44_single_data_transfer.md R246). The frame's
clause on the stored words is the model's reading of 20_memory.md section 8 (log 13). -/
def Obligations.SingleLoadToPc : Prop :=
  ∀ tForm c ix up rn off s, condPassed s.cpsr c = true → TransferAdmits false tForm ix rn 15#4 off →
    s.Reaches false (s.transferAddr ix up rn off) →
    s.aborts (s.transferAddr ix up rn off) .word .read (s.privOf tForm) = false →
    ∃ t, exec (loadInstr false tForm c ix up rn 15#4 off) s = .next t ∧
      t.pc = BitVec.ofNat 32 (s.leWord (s.transferAddr ix up rn off).toNat) &&&
        (if s.is26 then 0x03FFFFFC#32 else 0xFFFFFFFC#32) ∧
      (ix ≠ .pre → t.x rn = s.transferIdx up rn off) ∧ t.cpsr = s.cpsr ∧ s.Jumps t (if ix = .pre then [] else [rn])

/-- STR, STRB, STRT, STRBT: the bytes at the address hold Rd, or its least significant byte; every other byte is unchanged; the base
written back when the addressing says so; no flag changes (44_single_data_transfer.md R234, R239, R240, R243, R244). R15 stores as
`StoredR15()` (R246): A + 8 or A + 12, with the PSR bits in a 26-bit mode. The offset of a stored R15 is the open parameter STR_PC_OFFSET
(log 7); the list of stored words is the model's (log 13). -/
def Obligations.SingleStoreResult : Prop :=
  (∀ byte tForm c ix up rn rd off s, s.MemOk → s.Ready c → TransferAdmits byte tForm ix rn rd off →
    s.Reaches byte (s.transferAddr ix up rn off) →
    s.aborts (s.transferAddr ix up rn off) (transferSize byte) .write (s.privOf tForm) = false →
    ∃ t, exec (storeInstr byte tForm c ix up rn rd off) s = .next t ∧
      (let v := if rd = 15#4 then s.storedR15 else s.x rd
       if byte then (t.byteAt (s.transferAddr ix up rn off).toNat).toNat = v.toNat % 2 ^ 8
       else t.leWord (s.transferAddr ix up rn off).toNat = v.toNat) ∧
      (ix ≠ .pre → t.x rn = s.transferIdx up rn off) ∧ t.cpsr = s.cpsr ∧ t.lock = s.lock ∧
      s.StoresAt t (s.transferAddr ix up rn off) (if byte then 1 else 4) (if ix = .pre then [] else [rn])) ∧
  (∃ off : Word, (off = 8#32 ∨ off = 12#32) ∧
    ∀ s : State, s.storedR15 = if s.is26 then psrWord26 s.cpsr (s.pc + off) else s.pc + off)

/-- A single data transfer that the memory manager aborts takes the data abort with A + 8; Rd and memory are unchanged, and the base is
either written back or not, as `ABORT_BASE` says for every transfer alike (44_single_data_transfer.md R248, 60_exceptions.md R357). That
ABORT_BASE is one choice for the machine is log 8. The frame's clause on the stored words is the model's reading of 20_memory.md section 8
(log 13). That R14 keeps the whole saved address past the top of a 26-bit mode on `arm6plus` is log 30. -/
def Obligations.SingleTransferAborts : Prop :=
  ∃ updated : Bool, ∀ (load : Bool) byte tForm c ix up rn rd off s, condPassed s.cpsr c = true → TransferAdmits byte tForm ix rn rd off →
    s.Reaches byte (s.transferAddr ix up rn off) →
    s.aborts (s.transferAddr ix up rn off) (transferSize byte) (if load then .read else .write) (s.privOf tForm) = true →
    ∃ t, exec (if load then loadInstr byte tForm c ix up rn rd off else storeInstr byte tForm c ix up rn rd off) s = .next t ∧
      Entered (if updated = true ∧ ix ≠ .pre then s.setX rn (s.transferIdx up rn off) else s) .dataAbort (s.pc + 8) t

/-- Where the single data transfers stop: the restrictions of 44_single_data_transfer.md R245; an unaligned word (20_memory.md R74); an
address above 64 MBytes on `pre6` (R71). The order of the stops is the model's (log 16). -/
def Obligations.SingleTransferStops : Prop :=
  ∀ (load : Bool) byte tForm c ix up rn rd off s, condPassed s.cpsr c = true → (tForm = true → ix = .post) →
    (¬ TransferAdmits byte tForm ix rn rd off →
      ∃ r ∈ [Refusal.sdtRmR15, .sdtWritebackR15, .sdtByteR15, .sdtPostindexRnEqualsRm, .sdtRdEqualsRnWriteback],
        exec (if load then loadInstr byte tForm c ix up rn rd off else storeInstr byte tForm c ix up rn rd off) s = .refused r) ∧
    (TransferAdmits byte tForm ix rn rd off → byte = false → (s.transferAddr ix up rn off).toNat % 4 ≠ 0 →
      exec (if load then loadInstr byte tForm c ix up rn rd off else storeInstr byte tForm c ix up rn rd off) s =
        .refused .unalignedWord) ∧
    (TransferAdmits byte tForm ix rn rd off → (byte = false → (s.transferAddr ix up rn off).toNat % 4 = 0) →
      s.variant.isArm6Plus = false → 2 ^ 26 ≤ (s.transferAddr ix up rn off).toNat →
      exec (if load then loadInstr byte tForm c ix up rn rd off else storeInstr byte tForm c ix up rn rd off) s =
        .fault .addressAbove64M)

/-! ### Block data transfers -/

/-- The addresses of the block transfers (45_block_data_transfer.md R262): where the lowest-numbered of n registers is transferred, the
last address, and the written-back base. The spec infers the table of R262. -/
def Obligations.BlockAddresses : Prop :=
  ∀ (base : Word) (n : Nat), 0 < n →
    let m : Word := BitVec.ofNat 32 n
    (blockStart .ia base n = base ∧ wordAddr (blockStart .ia base n) (n - 1) = base + 4 * m - 4 ∧
      blockWriteBack .ia base n = base + 4 * m) ∧
    (blockStart .ib base n = base + 4 ∧ wordAddr (blockStart .ib base n) (n - 1) = base + 4 * m ∧
      blockWriteBack .ib base n = base + 4 * m) ∧
    (blockStart .da base n = base - 4 * m + 4 ∧ wordAddr (blockStart .da base n) (n - 1) = base ∧
      blockWriteBack .da base n = base - 4 * m) ∧
    (blockStart .db base n = base - 4 * m ∧ wordAddr (blockStart .db base n) (n - 1) = base - 4 ∧
      blockWriteBack .db base n = base - 4 * m)

/-- LDMIA, LDMIB, LDMDA, LDMDB without R15: the k-th listed register, of the user bank with S, holds the word at start + 4k; the base is
written back with W; no flag changes (45_block_data_transfer.md R264, R266 to R270). -/
def Obligations.LoadMultipleResult : Prop :=
  ∀ m c hat wb rn list s, s.Ready c → rn ≠ 15#4 → list ≠ 0#16 → list.getLsbD 15 = false →
    (wb = true → list.getLsbD rn.toNat = false) → (hat = true → s.isPrivileged = true ∧ wb = false) →
    s.BlockReaches (blockStart m (s.x rn) (listRegs list).length) (listRegs list).length .read →
    ∃ t, exec (loadMultiple m c hat wb rn list) s = .next t ∧
      (∀ k i, (listRegs list)[k]? = some i → ((if hat then t.xu i else t.x i)).toNat =
        s.leWord (wordAddr (blockStart m (s.x rn) (listRegs list).length) k).toNat) ∧
      (wb = true → t.x rn = blockWriteBack m (s.x rn) (listRegs list).length) ∧ t.cpsr = s.cpsr ∧ t.pc = s.pc + 4 ∧
      s.SameSystem t ∧ s.SameSpsrs t ∧ s.SameBytes t ∧ t.storedWords = s.storedWords ∧
      s.SameRegsBut t (if hat then .usr else s.cpsr.mode.bank) (if wb then rn :: listRegs list else listRegs list)

/-- LDM with R15 in its list: the other listed registers are those of the current mode; R15 is loaded from the last word, without S the pc
alone (45_block_data_transfer.md R264, R277), with S the pc and the status together (R271), refused where the status cannot be restored
(10_state.md R39; its last case is the spec's decision D6). The frame's clause on the stored words is the model's reading of 20_memory.md
section 8 (log 13). -/
def Obligations.LoadMultipleWithPc : Prop :=
  (∀ m c hat wb rn list s, condPassed s.cpsr c = true → rn ≠ 15#4 → list.getLsbD 15 = true →
    (wb = true → list.getLsbD rn.toNat = false) →
    s.BlockReaches (blockStart m (s.x rn) (listRegs list).length) (listRegs list).length .read →
    let last := BitVec.ofNat 32 (s.leWord (wordAddr (blockStart m (s.x rn) (listRegs list).length) ((listRegs list).length - 1)).toNat)
    (hat = true → s.CanReturn last) →
    ∃ t, exec (loadMultiple m c hat wb rn list) s = .next t ∧
      (∀ k i, (listRegs list)[k]? = some i → i ≠ 15#4 → (t.bankReg s.cpsr.mode.bank i).toNat =
        s.leWord (wordAddr (blockStart m (s.x rn) (listRegs list).length) k).toNat) ∧
      (wb = true → t.bankReg s.cpsr.mode.bank rn = blockWriteBack m (s.x rn) (listRegs list).length) ∧
      (hat = false → t.cpsr = s.cpsr ∧ t.pc = last &&& (if s.is26 then 0x03FFFFFC#32 else 0xFFFFFFFC#32)) ∧
      (hat = true → s.Returned t last) ∧ s.Jumps t (if wb then rn :: listRegs list else listRegs list)) ∧
  (∀ m c wb rn list s r, condPassed s.cpsr c = true → rn ≠ 15#4 → list.getLsbD 15 = true →
    (wb = true → list.getLsbD rn.toNat = false) →
    s.BlockReaches (blockStart m (s.x rn) (listRegs list).length) (listRegs list).length .read →
    s.ReturnRefused (BitVec.ofNat 32
      (s.leWord (wordAddr (blockStart m (s.x rn) (listRegs list).length) ((listRegs list).length - 1)).toNat)) r →
    exec (loadMultiple m c true wb rn list) s = .refused r)

/-- STMIA, STMIB, STMDA, STMDB: the word at start + 4k holds the k-th listed register, of the user bank with S; R15 is stored as A + 12 with
the PSR bits in a 26-bit mode; the base, written back with W, is stored as it was when it is first in the list, and is free when it is not
(45_block_data_transfer.md R265, R270, R272 to R277). Every other byte and every flag is unchanged. That the words stored count as stored
by the program is the model's reading of 20_memory.md section 8 (log 13). -/
def Obligations.StoreMultipleResult : Prop :=
  ∀ m c hat wb rn list s, s.MemOk → s.Ready c → rn ≠ 15#4 → list ≠ 0#16 →
    (hat = true → s.isPrivileged = true ∧ wb = false) →
    s.BlockReaches (blockStart m (s.x rn) (listRegs list).length) (listRegs list).length .write →
    ∃ t, exec (storeMultiple m c hat wb rn list) s = .next t ∧
      (∀ k i, (listRegs list)[k]? = some i → ¬ (i = rn ∧ wb = true ∧ k ≠ 0) →
        t.leWord (wordAddr (blockStart m (s.x rn) (listRegs list).length) k).toNat =
          (s.blockWord hat i).toNat) ∧
      s.StoresWords t (blockStart m (s.x rn) (listRegs list).length) (listRegs list).length ∧
      (wb = true → t.x rn = blockWriteBack m (s.x rn) (listRegs list).length) ∧ t.cpsr = s.cpsr ∧ t.pc = s.pc + 4 ∧
      s.SameSystem t ∧ s.SameSpsrs t ∧ s.SameRegsBut t s.cpsr.mode.bank (if wb then [rn] else [])

/-- A block transfer whose j-th access is the first that aborts takes the data abort with A + 8 (45_block_data_transfer.md R279): a store
has written the words below start + 4j and no other byte, and no register but the base; a load has written no byte and no register outside
its list but the base, and neither the pc nor the status is loaded. A base that is not loaded is written back if `ABORT_BASE` is updated
(log 8), else as it was. This state is the spec's decision D14 (log 20). What counts as stored by the program and the frame's clause on it
are the model's reading of 20_memory.md section 8 (log 13). That R14 keeps the whole saved address past the top of a 26-bit mode on
`arm6plus` is log 30. -/
def Obligations.BlockTransferAborts : Prop :=
  (∀ m c hat wb rn list s j, s.MemOk → condPassed s.cpsr c = true → s.BlockAdmits false hat wb rn list →
    (∀ k < (listRegs list).length, s.Reaches false (wordAddr (blockStart m (s.x rn) (listRegs list).length) k)) →
    j < (listRegs list).length →
    s.BlockReaches (blockStart m (s.x rn) (listRegs list).length) j .write →
    s.aborts (wordAddr (blockStart m (s.x rn) (listRegs list).length) j) .word .write s.priv = true →
    ∃ u t, exec (storeMultiple m c hat wb rn list) s = .next t ∧ Entered u .dataAbort (s.pc + 8) t ∧ u.cpsr = s.cpsr ∧
      s.SameSystem u ∧ s.SameSpsrs u ∧ s.SameRegsBut u s.cpsr.mode.bank (if wb then [rn] else []) ∧
      u.x rn = (if wb = true ∧ Config.abortBaseUpdated = true then blockWriteBack m (s.x rn) (listRegs list).length else s.x rn) ∧
      (∀ k < j, ∀ i, (listRegs list)[k]? = some i → ¬ (i = rn ∧ wb = true ∧ k ≠ 0) →
        u.leWord (wordAddr (blockStart m (s.x rn) (listRegs list).length) k).toNat = (s.blockWord hat i).toNat) ∧
      s.StoresWords u (blockStart m (s.x rn) (listRegs list).length) j) ∧
  (∀ m c hat wb rn list s j, condPassed s.cpsr c = true → s.BlockAdmits true hat wb rn list →
    (∀ k < (listRegs list).length, s.Reaches false (wordAddr (blockStart m (s.x rn) (listRegs list).length) k)) →
    j < (listRegs list).length →
    s.aborts (wordAddr (blockStart m (s.x rn) (listRegs list).length) j) .word .read s.priv = true →
    ∃ u t, exec (loadMultiple m c hat wb rn list) s = .next t ∧ Entered u .dataAbort (s.pc + 8) t ∧ u.cpsr = s.cpsr ∧
      s.SameSystem u ∧ s.SameSpsrs u ∧ s.SameBytes u ∧ u.storedWords = s.storedWords ∧
      (list.getLsbD rn.toNat = false → u.x rn =
        (if wb = true ∧ Config.abortBaseUpdated = true then blockWriteBack m (s.x rn) (listRegs list).length else s.x rn)) ∧
      ∀ q, (∀ i ∈ listRegs list, physReg (if hat = true ∧ list.getLsbD 15 = false then .usr else s.cpsr.mode.bank) i ≠ some q) →
        (wb = true → physReg s.cpsr.mode.bank rn ≠ some q) → u.phys q = s.phys q)

/-- Where the block transfers stop: the restrictions of 45_block_data_transfer.md R278, and, where none of them applies, an unaligned start
and then an address above 64 MBytes on `pre6` (R262, 20_memory.md R71, R74). Where several restrictions hold of one instruction, the name
of the refusal is the model's order of the checks, that of the table of R278 (log 15); that alignment comes before the width of the
addresses is log 16. -/
def Obligations.BlockTransferRefused : Prop :=
  ∀ m c hat wb rn list s, condPassed s.cpsr c = true →
    (rn = 15#4 → exec (loadMultiple m c hat wb rn list) s = .refused .bdtBaseR15 ∧
      exec (storeMultiple m c hat wb rn list) s = .refused .bdtBaseR15) ∧
    (rn ≠ 15#4 → wb = true → list.getLsbD rn.toNat = true →
      exec (loadMultiple m c hat wb rn list) s = .refused .ldmBaseInListWriteback) ∧
    (rn ≠ 15#4 → hat = true → s.isPrivileged = false →
      exec (storeMultiple m c hat wb rn list) s = .refused .bdtSInUser ∧
      ((wb = true → list.getLsbD rn.toNat = false) →
        (list.getLsbD 15 = false → exec (loadMultiple m c hat wb rn list) s = .refused .bdtSInUser) ∧
        (list.getLsbD 15 = true → s.cpsr.mode = .usr32 → exec (loadMultiple m c hat wb rn list) s = .refused .spsrInUser))) ∧
    (rn ≠ 15#4 → (hat = true → s.isPrivileged = true) → list = 0#16 → exec (loadMultiple m c hat wb rn list) s = .refused .bdtEmptyList ∧
      exec (storeMultiple m c hat wb rn list) s = .refused .bdtEmptyList) ∧
    (rn ≠ 15#4 → hat = true → s.isPrivileged = true → list ≠ 0#16 → wb = true →
      exec (storeMultiple m c hat wb rn list) s = .refused .bdtUserBankWriteback ∧
      (list.getLsbD 15 = false → list.getLsbD rn.toNat = false →
        exec (loadMultiple m c hat wb rn list) s = .refused .bdtUserBankWriteback)) ∧
    (∀ load, s.BlockAdmits load hat wb rn list →
      let i := if load then loadMultiple m c hat wb rn list else storeMultiple m c hat wb rn list
      ((s.x rn).toNat % 4 ≠ 0 → exec i s = .refused .unalignedWord) ∧
      ((s.x rn).toNat % 4 = 0 → s.variant.isArm6Plus = false →
        (∃ k < (listRegs list).length, 2 ^ 26 ≤ (wordAddr (blockStart m (s.x rn) (listRegs list).length) k).toNat) →
        exec i s = .fault .addressAbove64M))

/-! ### Exceptions -/

/-- SWI enters SVC mode through vector 8 with A + 4; the number is not interpreted (46_software_interrupt.md R290, R291). The saved A + 4 is
the spec's decision D18. The frame's clause on the stored words is the model's reading of 20_memory.md section 8 (log 13). That R14 keeps
the whole saved address past the top of a 26-bit mode on `arm6plus` is log 30. -/
def Obligations.SoftwareInterruptEnters : Prop :=
  ∀ c y s, condPassed s.cpsr c = true → ∃ t, exec (.swi c y) s = .next t ∧ Entered s .softwareInterrupt (s.pc + 4) t

/-- `TakeException` (60_exceptions.md R352, R353): the vector and mode of its row, I set, F set by Reset and FIQ only, N, Z, C, V kept; on
`pre6` R14 of the mode entered holds the old PSR bits around the address, on `arm6plus` R14 the address and the SPSR the old status; nothing
else changes. The spec takes most vectors and mask bits from general knowledge (D8, D9, D18; log 18). The frame's clause on the stored words
is the model's reading of 20_memory.md section 8 (log 13). That R14 keeps the whole saved address past the top of a 26-bit mode on
`arm6plus` is log 30. -/
def Obligations.ExceptionEntry : Prop := ∀ (u : State) k ret, Entered u k ret (u.takeException k ret)

/-- `MOVS PC,R14` right after an entry is the way back (60_exceptions.md R354, R370): the pc is the address saved and the whole status is
what it was, on every processor and from every mode; no register changes. The frame's clause on the stored words is the model's reading of
20_memory.md section 8 (log 13). -/
def Obligations.ReturnFromException : Prop :=
  ∀ (s : State) k ret, s.ModeOk → ret.extractLsb' 0 2 = 0#2 → (s.is26 = true → ret.extractLsb' 26 6 = 0#6) →
    ∃ t, exec (.mov .al true 15#4 0#4 (.shiftImm 14#4 .lsl 0#5)) (s.takeException k ret) = .next t ∧
      t.pc = ret ∧ t.cpsr = s.cpsr ∧ (s.takeException k ret).Jumps t []

/-! ### Coprocessors -/

/-- A coprocessor instruction to a coprocessor that is absent or does not accept the word takes the undefined-instruction exception, and
nothing else happens first (47_coprocessor.md R297). The interface of a coprocessor is the spec's decision D26, its form in State the
model's (log 6). The frame's clause on the stored words is the model's reading of 20_memory.md section 8 (log 13). That R14 keeps the whole
saved address past the top of a 26-bit mode on `arm6plus` is log 30. -/
def Obligations.CoprocessorAbsent : Prop :=
  ∀ i c p s, condPassed s.cpsr c = true →
    (∃ o crn crd q crm, i = .cdp c o crn crd p q crm) ∨ (∃ ix up long rn crd o, i = .ldc c ix up long rn crd p o) ∨
    (∃ ix up long rn crd o, i = .stc c ix up long rn crd p o) ∨
    (∃ o crn rd q crm, rd ≠ 15#4 ∧ i = .mcr c o crn rd p q crm) ∨ (∃ o crn rd q crm, i = .mrc c o crn rd p q crm) →
    (∀ st, s.coprocs[p.toNat]'p.isLt = some st → ∀ a ∈ st.accepts, encode i &&& a.mask ≠ a.value) →
    ∃ t, exec i s = .next t ∧ Entered s .undefinedInstruction (s.pc + 4) t

/-- CDP, MCR and MRC to a coprocessor that accepts the word: its new state is its own operation's, no other coprocessor changes; CDP and
MCR change nothing of the ARM's; MRC writes the word to Rd, or its top 4 bits to the flags for R15 (47_coprocessor.md R298, R303, R304).
The interface of a coprocessor is the spec's decision D26, its form in State the model's (log 6). -/
def Obligations.CoprocessorOperations : Prop :=
  ∀ c p q crm s st, s.Ready c → s.coprocs[p.toNat]'p.isLt = some st →
    (∀ o crn crd, (∃ a ∈ st.accepts, encode (.cdp c o crn crd p q crm) &&& a.mask = a.value) →
      exec (.cdp c o crn crd p q crm) s = .next { s with
        pc := s.pc + 4
        coprocs := s.coprocs.set p.toNat (some (Config.coprocCdp p (encode (.cdp c o crn crd p q crm)) st)) p.isLt }) ∧
    (∀ o crn rd, rd ≠ 15#4 → (∃ a ∈ st.accepts, encode (.mcr c o crn rd p q crm) &&& a.mask = a.value) →
      exec (.mcr c o crn rd p q crm) s = .next { s with
        pc := s.pc + 4
        coprocs := s.coprocs.set p.toNat (some (Config.coprocMcr p (encode (.mcr c o crn rd p q crm)) (s.x rd) st)) p.isLt }) ∧
    (∀ o crn rd, (∃ a ∈ st.accepts, encode (.mrc c o crn rd p q crm) &&& a.mask = a.value) →
      let v := Config.coprocMrcWord p (encode (.mrc c o crn rd p q crm)) st
      ∃ t, exec (.mrc c o crn rd p q crm) s = .next t ∧ t.pc = s.pc + 4 ∧
        t.coprocs = s.coprocs.set p.toNat (some (Config.coprocMrcState p (encode (.mrc c o crn rd p q crm)) st)) p.isLt ∧
        (rd ≠ 15#4 → t.x rd = v ∧ t.cpsr = s.cpsr) ∧
        (rd = 15#4 → t.cpsr = { s.cpsr with
          n := v.getLsbD 31, z := v.getLsbD 30, c := v.getLsbD 29, v := v.getLsbD 28 }) ∧
        s.SameSpsrs t ∧ s.SameBytes t ∧ t.storedWords = s.storedWords ∧ t.lock = s.lock ∧
        s.SameRegsBut t s.cpsr.mode.bank (if rd = 15#4 then [] else [rd]))

/-- LDC and STC to a coprocessor that accepts the word, no access aborted: the words at the address, address + 4, and so on, as many as
the coprocessor says, go to it or come from it; the base is written back when the addressing says so (47_coprocessor.md R299 to R301). The
interface of a coprocessor is the spec's decision D26, its form in State the model's (log 6). That the words stored count as stored by the
program is the model's reading of 20_memory.md section 8 (log 13). -/
def Obligations.CoprocessorTransfers : Prop :=
  ∀ c ix up long rn crd p o s st, s.MemOk → s.Ready c → s.coprocs[p.toNat]'p.isLt = some st → (ix ≠ .pre → rn ≠ 15#4) →
    let base := s.readRn rn
    let idx := if up then base + 4#32 * o.zeroExtend 32 else base - 4#32 * o.zeroExtend 32
    let addr := if ix = .post then base else idx
    (∀ w, w = encode (.ldc c ix up long rn crd p o) → (∃ a ∈ st.accepts, w &&& a.mask = a.value) →
      s.BlockReaches addr (Config.coprocMoreWords p w st + 1) .read →
      ∃ t words, exec (.ldc c ix up long rn crd p o) s = .next t ∧ words.length = Config.coprocMoreWords p w st + 1 ∧
        (∀ (k : Nat) (v : Word), words[k]? = some v → v.toNat = s.leWord (wordAddr addr k).toNat) ∧
        t.coprocs = s.coprocs.set p.toNat (some (Config.coprocLdc p w words st)) p.isLt ∧ t.pc = s.pc + 4 ∧ t.cpsr = s.cpsr ∧
        (ix ≠ .pre → t.x rn = idx) ∧ s.SameSpsrs t ∧ s.SameBytes t ∧ t.storedWords = s.storedWords ∧ t.lock = s.lock ∧
        s.SameRegsBut t s.cpsr.mode.bank (if ix = .pre then [] else [rn])) ∧
    (∀ w, w = encode (.stc c ix up long rn crd p o) → (∃ a ∈ st.accepts, w &&& a.mask = a.value) →
      s.BlockReaches addr (Config.coprocMoreWords p w st + 1) .write →
      ∃ t, exec (.stc c ix up long rn crd p o) s = .next t ∧
        (∀ k < Config.coprocMoreWords p w st + 1, Config.coprocMoreWords p w st + 1 ≤ 2 ^ 30 →
          t.leWord (wordAddr addr k).toNat = (Config.coprocStcWord p w st k).toNat) ∧
        s.StoresWords t addr (Config.coprocMoreWords p w st + 1) ∧
        t.coprocs = s.coprocs.set p.toNat (some (Config.coprocStcState p w st)) p.isLt ∧ t.pc = s.pc + 4 ∧ t.cpsr = s.cpsr ∧
        (ix ≠ .pre → t.x rn = idx) ∧ t.lock = s.lock ∧ s.SameSpsrs t ∧
        s.SameRegsBut t s.cpsr.mode.bank (if ix = .pre then [] else [rn]))

/-- LDC and STC whose j-th access is the first that aborts, the words below it reached and let through (47_coprocessor.md R300, R301,
60_exceptions.md R357): the data abort with A + 8; the coprocessor is unchanged; an LDC has changed nothing and an STC has written the words
below address + 4j and no other byte; the base is written back if the addressing says so and `ABORT_BASE` is updated (log 8). What becomes
of the words above does not matter, whatever their addresses. The state left is the spec's decision D14 (log 20), the coprocessor's
interface its D26 (log 6); what counts as stored by the program and the frame's clause on it are the model's reading of 20_memory.md section
8 (log 13). That R14 keeps the whole saved address past the top of a 26-bit mode on `arm6plus` is log 30. -/
def Obligations.CoprocessorTransferAborts : Prop :=
  ∀ c ix up long rn crd p o s st j, condPassed s.cpsr c = true → s.coprocs[p.toNat]'p.isLt = some st → (ix ≠ .pre → rn ≠ 15#4) →
    let idx := if up then s.readRn rn + 4#32 * o.zeroExtend 32 else s.readRn rn - 4#32 * o.zeroExtend 32
    let addr := if ix = .post then s.readRn rn else idx
    s.Reaches false (wordAddr addr j) →
    (∀ w, w = encode (.ldc c ix up long rn crd p o) → (∃ a ∈ st.accepts, w &&& a.mask = a.value) →
      j < Config.coprocMoreWords p w st + 1 → s.BlockReaches addr j .read → s.aborts (wordAddr addr j) .word .read s.priv = true →
      ∃ t, exec (.ldc c ix up long rn crd p o) s = .next t ∧
        Entered (if ix ≠ .pre ∧ Config.abortBaseUpdated = true then s.setX rn idx else s) .dataAbort (s.pc + 8) t) ∧
    (∀ w, s.MemOk → w = encode (.stc c ix up long rn crd p o) → (∃ a ∈ st.accepts, w &&& a.mask = a.value) →
      j < Config.coprocMoreWords p w st + 1 → s.BlockReaches addr j .write → s.aborts (wordAddr addr j) .word .write s.priv = true →
      ∃ u t, exec (.stc c ix up long rn crd p o) s = .next t ∧ Entered u .dataAbort (s.pc + 8) t ∧ u.cpsr = s.cpsr ∧
        s.SameSystem u ∧ s.SameSpsrs u ∧ s.SameRegsBut u s.cpsr.mode.bank (if ix = .pre then [] else [rn]) ∧
        (ix ≠ .pre → u.x rn = if Config.abortBaseUpdated = true then idx else s.x rn) ∧
        (j ≤ 2 ^ 30 → ∀ k < j, u.leWord (wordAddr addr k).toNat = (Config.coprocStcWord p w st k).toNat) ∧ s.StoresWords u addr j)

/-- Where the coprocessor instructions stop. LDC and STC to a coprocessor that accepts the word: an address that is no multiple of 4, then
write-back to R15 (47_coprocessor.md R299); on `pre6` an address above 64 MBytes (20_memory.md R71) that the transfer comes to with no
access before it aborted. MCR with Rd = R15, whether or not the coprocessor responds (R303). The coprocessor's interface is the spec's
decision D26 (log 6); the name where two of these hold is the model's order of the checks, that of R299 and then of the accesses (logs 15
and 16). -/
def Obligations.CoprocessorStops : Prop :=
  (∀ c ix up long rn crd p o s st, condPassed s.cpsr c = true → s.coprocs[p.toNat]'p.isLt = some st →
    let idx := if up then s.readRn rn + 4#32 * o.zeroExtend 32 else s.readRn rn - 4#32 * o.zeroExtend 32
    let addr := if ix = .post then s.readRn rn else idx
    ∀ i dir, (i = .ldc c ix up long rn crd p o ∧ dir = .read) ∨ (i = .stc c ix up long rn crd p o ∧ dir = .write) →
      (∃ a ∈ st.accepts, encode i &&& a.mask = a.value) →
      (addr.toNat % 4 ≠ 0 → exec i s = .refused .unalignedWord) ∧
      (addr.toNat % 4 = 0 → ix ≠ .pre → rn = 15#4 → exec i s = .refused .ldcWritebackR15) ∧
      (addr.toNat % 4 = 0 → (ix ≠ .pre → rn ≠ 15#4) → s.variant.isArm6Plus = false →
        ∀ j < Config.coprocMoreWords p (encode i) st + 1, s.BlockReaches addr j dir → 2 ^ 26 ≤ (wordAddr addr j).toNat →
          exec i s = .fault .addressAbove64M)) ∧
  (∀ c o crn p q crm s, condPassed s.cpsr c = true → exec (.mcr c o crn 15#4 p q crm) s = .refused .mcrR15)

/-! ### Swaps -/

/-- SWP and SWPB: Rd holds what memory held, memory holds what Rm held, both read before either is written, so Rd may be Rm or Rn; no flag
changes and LOCK is low again (48_swap.md R321, R322, 10_state.md R43). The list of stored words is the model's (log 13). -/
def Obligations.SwapResult : Prop :=
  ∀ c byte rn rd rm s, s.MemOk → s.Ready c → rn ≠ 15#4 → rd ≠ 15#4 → rm ≠ 15#4 → s.Reaches byte (s.x rn) →
    s.aborts (s.x rn) (transferSize byte) .read s.priv = false → s.aborts (s.x rn) (transferSize byte) .write s.priv = false →
    ∃ t, exec (if byte then .swpb c rn rd rm else .swp c rn rd rm) s = .next t ∧
      (t.x rd).toNat = (if byte then (s.byteAt (s.x rn).toNat).toNat else s.leWord (s.x rn).toNat) ∧
      (if byte then (t.byteAt (s.x rn).toNat).toNat = (s.x rm).toNat % 2 ^ 8 else t.leWord (s.x rn).toNat = (s.x rm).toNat) ∧
      t.cpsr = s.cpsr ∧ t.lock = false ∧ s.StoresAt t (s.x rn) (if byte then 1 else 4) [rd]

/-- Where the swaps stop or abort: R15 and an unaligned word are refused, an address above 64 MBytes on `pre6` faults (20_memory.md R71), an
abort of either access takes the data abort with Rd and memory unchanged (48_swap.md R321, R322). That alignment comes before the width of
the address is the model's order (log 16). That an aborted swap leaves memory unchanged is the spec's decision D7 and D14 (log 20). The
frame's clause on the stored words is the model's reading of 20_memory.md section 8 (log 13). That R14 keeps the whole saved address past
the top of a 26-bit mode on `arm6plus` is log 30. -/
def Obligations.SwapStopsAndAborts : Prop :=
  ∀ c byte rn rd rm s, condPassed s.cpsr c = true →
    (rn = 15#4 ∨ rd = 15#4 ∨ rm = 15#4 → exec (if byte then .swpb c rn rd rm else .swp c rn rd rm) s = .refused .swpR15) ∧
    (rn ≠ 15#4 → rd ≠ 15#4 → rm ≠ 15#4 → byte = false → (s.x rn).toNat % 4 ≠ 0 →
      exec (if byte then .swpb c rn rd rm else .swp c rn rd rm) s = .refused .unalignedWord) ∧
    (rn ≠ 15#4 → rd ≠ 15#4 → rm ≠ 15#4 → (byte = false → (s.x rn).toNat % 4 = 0) → s.variant.isArm6Plus = false →
      2 ^ 26 ≤ (s.x rn).toNat → exec (if byte then .swpb c rn rd rm else .swp c rn rd rm) s = .fault .addressAbove64M) ∧
    (rn ≠ 15#4 → rd ≠ 15#4 → rm ≠ 15#4 → s.Reaches byte (s.x rn) → s.lock = false →
      (s.aborts (s.x rn) (transferSize byte) .read s.priv = true ∨ s.aborts (s.x rn) (transferSize byte) .write s.priv = true) →
      ∃ t, exec (if byte then .swpb c rn rd rm else .swp c rn rd rm) s = .next t ∧ Entered s .dataAbort (s.pc + 8) t)

/-! ### Status register transfers -/

/-- MRS: Rd holds the flags, I, F and M of the CPSR or of the SPSR of the mode, in the layout of 10_state.md R29; the other bits are free and
no flag changes (49_status_transfer_and_undefined.md R332, R333). That the reserved bits are free on a read is the spec's decision D15
(log 10), and MRS in a 26-bit mode its D25 (log 18). -/
def Obligations.MrsReadsAStatus : Prop :=
  ∀ c spsr rd s p, s.Ready c → rd ≠ 15#4 → (if spsr then s.spsr else some s.cpsr.toPsr) = some p →
    ∃ t, exec (.mrs c spsr rd) s = .next t ∧ s.StepsOn t [rd] ∧ t.cpsr = s.cpsr ∧
      (t.x rd).getLsbD 31 = p.n ∧ (t.x rd).getLsbD 30 = p.z ∧ (t.x rd).getLsbD 29 = p.c ∧ (t.x rd).getLsbD 28 = p.v ∧
      (t.x rd).getLsbD 7 = p.i ∧ (t.x rd).getLsbD 6 = p.f ∧ (t.x rd).extractLsb' 0 5 = p.m

/-- MSR to the CPSR, both forms, from the source word v: the flags when `aaaa` says so, the control bits when it says so and the mode is
privileged; in user mode those stay (49_status_transfer_and_undefined.md R335 to R337). That user mode cannot write the control bits is
the spec's decision D24. -/
def Obligations.MsrWritesTheCpsr : Prop :=
  ∀ c (part : PsrPart) i v s, s.Ready c →
    (∃ rm, rm ≠ 15#4 ∧ i = .msrReg c false part rm ∧ v = s.x rm) ∨ (∃ r b, i = .msrImm c false part r b ∧ v = rotatedImm r b) →
    s.MsrAdmits part v →
    let control := part ≠ .flg ∧ s.isPrivileged = true
    ∃ t, exec i s = .next t ∧ s.StepsOn t [] ∧
      (part ≠ .ctl → t.cpsr.n = v.getLsbD 31 ∧ t.cpsr.z = v.getLsbD 30 ∧ t.cpsr.c = v.getLsbD 29 ∧ t.cpsr.v = v.getLsbD 28) ∧
      (part = .ctl → t.cpsr.n = s.cpsr.n ∧ t.cpsr.z = s.cpsr.z ∧ t.cpsr.c = s.cpsr.c ∧ t.cpsr.v = s.cpsr.v) ∧
      (control → t.cpsr.i = v.getLsbD 7 ∧ t.cpsr.f = v.getLsbD 6 ∧ t.cpsr.mode.toBits = v.extractLsb' 0 5) ∧
      (¬ control → t.cpsr.i = s.cpsr.i ∧ t.cpsr.f = s.cpsr.f ∧ t.cpsr.mode = s.cpsr.mode)

/-- MSR to the SPSR of a privileged mode, both forms: the flags and the control bits that `aaaa` names, any mode value as written; the CPSR
and the other SPSRs stay (49_status_transfer_and_undefined.md R331, R335). -/
def Obligations.MsrWritesTheSpsr : Prop :=
  ∀ c (part : PsrPart) i v s p, s.Ready c → s.spsr = some p →
    (∃ rm, rm ≠ 15#4 ∧ i = .msrReg c true part rm ∧ v = s.x rm) ∨ (∃ r b, i = .msrImm c true part r b ∧ v = rotatedImm r b) →
    ∃ t q, exec i s = .next t ∧ t.spsr = some q ∧ t.cpsr = s.cpsr ∧ t.pc = s.pc + 4 ∧
      (if part = .ctl then q.n = p.n ∧ q.z = p.z ∧ q.c = p.c ∧ q.v = p.v
       else q.n = v.getLsbD 31 ∧ q.z = v.getLsbD 30 ∧ q.c = v.getLsbD 29 ∧ q.v = v.getLsbD 28) ∧
      (if part = .flg then q.i = p.i ∧ q.f = p.f ∧ q.m = p.m
       else q.i = v.getLsbD 7 ∧ q.f = v.getLsbD 6 ∧ q.m = v.extractLsb' 0 5) ∧
      (∀ b, b ≠ s.cpsr.mode.bank → t.spsrOf b = s.spsrOf b) ∧ s.SameSystem t ∧ s.SameBytes t ∧ s.SameRegsBut t .usr []

/-- Where MRS and MSR stop: R15, an SPSR in user mode; and, of both forms of MSR to the CPSR, a value that is no defined mode written to the
current mode, and a mode afterwards that is a 26-bit one with A + 4 above 64 MBytes (10_state.md R38; 49_status_transfer_and_undefined.md
R331, R333, R335 to R337). The last is the spec's decision D6; that at the top of a 26-bit mode's range it comes before `pc-wrap` is the
model's order (log 26). -/
def Obligations.StatusTransferRefused : Prop :=
  ∀ c s, condPassed s.cpsr c = true →
    (∀ spsr, exec (.mrs c spsr 15#4) s = .refused .mrsR15) ∧ (∀ spsr part, exec (.msrReg c spsr part 15#4) s = .refused .msrR15) ∧
    (s.isPrivileged = false → ∀ part rd r b, rd ≠ 15#4 → exec (.mrs c true rd) s = .refused .spsrInUser ∧
      exec (.msrReg c true part rd) s = .refused .spsrInUser ∧ exec (.msrImm c true part r b) s = .refused .spsrInUser) ∧
    (∀ i part v,
      (∃ rm, rm ≠ 15#4 ∧ i = .msrReg c false part rm ∧ v = s.x rm) ∨ (∃ r b, i = .msrImm c false part r b ∧ v = rotatedImm r b) →
      (part ≠ .flg → s.isPrivileged = true → Mode.ofBits (v.extractLsb' 0 5) = none → exec i s = .refused .modeIllegal) ∧
      ((if part ≠ .flg ∧ s.isPrivileged = true then ∃ m, Mode.ofBits (v.extractLsb' 0 5) = some m ∧ m.is26 = true else s.is26 = true) →
        (s.pc + 4).extractLsb' 26 6 ≠ 0#6 → exec i s = .refused .pcAbove64MIn26bit))

/-! ### Reset, invariants, privilege -/

/-- What reset leaves (10_state.md R45, 70_reset_and_hazards.md R400), on every processor: pc = 0, SVC mode, I = F = 1. That State.reset
is an ARM7DM that nothing aborts, with no coprocessor and no request, is the model's choice (logs 1, 5, 6 and 11). -/
def Obligations.ResetState : Prop :=
  (∀ v memMap coprocs inputs, let s := State.resetOn v memMap coprocs inputs
    s.pc = 0#32 ∧ s.cpsr.i = true ∧ s.cpsr.f = true ∧ s.cpsr.mode.toBits = (if v.isArm6Plus then 0b10011#5 else 0b00011#5)) ∧
  State.reset = State.resetOn .arm7dm [] (Vector.replicate 16 none) ⟨[], none⟩

/-- The invariant holds after reset: a pc legal for the mode, a mode that the processor has, canonical memory, LOCK low. That memory and
the stored words are empty at reset is the model's choice (logs 4 and 13). -/
def Obligations.InvariantAtReset : Prop := ∀ v memMap coprocs inputs, (State.resetOn v memMap coprocs inputs).Inv

/-- Every step keeps the invariant: the pc stays a word address, below 64 MBytes in a 26-bit mode (10_state.md R30); on `pre6` the mode
stays a 26-bit mode (R27); memory and the stored words keep their canonical form; LOCK is low between instructions (R43). The canonical
form of memory and of the stored words is the model's own. -/
def Obligations.StepKeepsInvariant : Prop := ∀ s t : State, s.Inv → step s = .next t → t.Inv

/-- "User mode is left only by an exception" (60_exceptions.md R381), and in user mode nothing but an exception changes I, F or M (R363):
a step from user mode keeps all three or is an entry through a vector, with I set and in the mode of that vector. -/
def Obligations.UserModeIsConfined : Prop :=
  ∀ s t : State, s.cpsr.mode.bank = .usr → step s = .next t →
    (t.cpsr.i = s.cpsr.i ∧ t.cpsr.f = s.cpsr.f ∧ t.cpsr.mode = s.cpsr.mode) ∨
    (∃ k : Exc, t.pc = k.vector ∧ t.cpsr.i = true ∧ t.cpsr.mode = k.mode s.variant)

/-- No step changes the processor or the memory manager's answers (00_scope.md R5, R6), and each spends one sample of the inputs. That
they stand in State, and one sample of the inputs is spent by each step, is the model's form (logs 1, 5 and 11). -/
def Obligations.ParametersAreFixed : Prop :=
  ∀ s t : State, step s = .next t → t.variant = s.variant ∧ t.memMap = s.memMap ∧ t.inputs = s.inputs.rest

/-! ### Runs -/

/-- A run ends in the first state of which `END_OF_RUN` holds, if it comes to one within the steps allowed, and in no other
(00_scope.md R6). The predicate is open, and that it is one on states is the spec's decision D20 (log 23). -/
def Obligations.RunEndsWhereAsked : Prop :=
  ∀ (endOfRun : State → Bool) n s t, runUntil endOfRun n s = .ended t ↔
    endOfRun t = true ∧ ∃ k ≤ n, StepsTo k s t ∧ ∀ j < k, ∀ u, StepsTo j s u → endOfRun u = false
end

