-- ==== Sys2Proof/Laws/Encoding.lean ====
section
/-! SUPPORT. Fields of words written as appended parts, and the small round trips of the fields: what a proof that decoding
an encoded instruction gives it back cites. -/

namespace Sys2Proof

/-- A field that lies in the upper of two parts. -/
theorem extractLsb'_append_upper {a b : Nat} (x : BitVec a) (y : BitVec b) (lo len : Nat) (h : b ≤ lo) :
    BitVec.extractLsb' (n := no_index (a + b)) lo len
      (@HAppend.hAppend (BitVec a) (BitVec b) (no_index (BitVec (a + b))) _ x y) = x.extractLsb' (lo - b) len :=
  BitVec.extractLsb'_append_eq_of_le h

/-- A field that lies in the lower of two parts. -/
theorem extractLsb'_append_lower {a b : Nat} (x : BitVec a) (y : BitVec b) (lo len : Nat) (h : lo + len ≤ b) :
    BitVec.extractLsb' (n := no_index (a + b)) lo len
      (@HAppend.hAppend (BitVec a) (BitVec b) (no_index (BitVec (a + b))) _ x y) = y.extractLsb' lo len :=
  BitVec.extractLsb'_append_eq_of_add_le h

/-- A bit of the upper of two parts. -/
theorem getLsbD_append_upper {a b : Nat} (x : BitVec a) (y : BitVec b) (i : Nat) (h : b ≤ i) :
    BitVec.getLsbD (w := no_index (a + b))
      (@HAppend.hAppend (BitVec a) (BitVec b) (no_index (BitVec (a + b))) _ x y) i = x.getLsbD (i - b) := by
  rw [BitVec.getLsbD_append, if_neg (by omega)]

/-- A bit of the lower of two parts. -/
theorem getLsbD_append_lower {a b : Nat} (x : BitVec a) (y : BitVec b) (i : Nat) (h : i < b) :
    BitVec.getLsbD (w := no_index (a + b))
      (@HAppend.hAppend (BitVec a) (BitVec b) (no_index (BitVec (a + b))) _ x y) i = y.getLsbD i := by
  rw [BitVec.getLsbD_append, if_pos h]

theorem getLsbD_ofBool_zero (b : Bool) : (BitVec.ofBool b).getLsbD 0 = b := by cases b <;> rfl

theorem condOfBits_condBits (c : Cond) : condOfBits (condBits c) = c := by cases c <;> rfl

theorem condBits_condOfBits (x : BitVec 4) : condBits (condOfBits x) = x := by revert x; decide

theorem shiftOfBits_shiftBits (k : ShiftKind) : shiftOfBits (shiftBits k) = k := by cases k <;> rfl

theorem shiftBits_shiftOfBits (x : BitVec 2) : shiftBits (shiftOfBits x) = x := by revert x; decide

theorem psrPartOfBits_psrPartBits (p : PsrPart) : psrPartOfBits (psrPartBits p) = some p := by cases p <;> rfl

theorem indexingOfBits_bits (ix : Indexing) : indexingOfBits ix.pBit ix.wBit = ix := by cases ix <;> rfl

theorem indexingOfBits_bitsCoproc (ix : Indexing) : indexingOfBits ix.pBit ix.wBitCoproc = ix := by cases ix <;> rfl

/-! The class, bits 27..25, and the condition, bits 31..28, of each format (30_encoding.md R101, R117). -/

theorem class_encodeDataProc (c : Cond) (op : BitVec 4) (sf : Bool) (rn rd : RegNum) (op2 : Op2) :
    fld (encodeDataProc c op sf rn rd op2) 25 3 = 0b00#2 ++ op2.iBit := by
  apply BitVec.eq_of_getLsbD_eq
  intro i hi
  unfold fld encodeDataProc
  simp only [BitVec.getLsbD_extractLsb', BitVec.getLsbD_append]
  interval_cases i <;> simp

theorem class_encodeMultiply (c : Cond) (kind : BitVec 3) (sf : Bool) (rh rl rs rm : RegNum) :
    fld (encodeMultiply c kind sf rh rl rs rm) 25 3 = 0b000#3 := by
  apply BitVec.eq_of_getLsbD_eq
  intro i hi
  unfold fld encodeMultiply
  simp only [BitVec.getLsbD_extractLsb', BitVec.getLsbD_append]
  interval_cases i <;> simp

theorem class_encodeTransfer (c : Cond) (p up byte w load : Bool) (rn rd : RegNum) (off : Offset) :
    fld (encodeTransfer c p up byte w load rn rd off) 25 3 = 0b01#2 ++ off.iBit := by
  apply BitVec.eq_of_getLsbD_eq
  intro i hi
  unfold fld encodeTransfer
  simp only [BitVec.getLsbD_extractLsb', BitVec.getLsbD_append]
  interval_cases i <;> simp

theorem class_encodeBlock (c : Cond) (p up hat wb load : Bool) (rn : RegNum) (list : BitVec 16) :
    fld (encodeBlock c p up hat wb load rn list) 25 3 = 0b100#3 := by
  apply BitVec.eq_of_getLsbD_eq
  intro i hi
  unfold fld encodeBlock
  simp only [BitVec.getLsbD_extractLsb', BitVec.getLsbD_append]
  interval_cases i <;> simp

theorem class_encodeCoprocTransfer (c : Cond) (ix : Indexing) (up long load : Bool) (rn crd p : RegNum) (o : BitVec 8) :
    fld (encodeCoprocTransfer c ix up long load rn crd p o) 25 3 = 0b110#3 := by
  apply BitVec.eq_of_getLsbD_eq
  intro i hi
  unfold fld encodeCoprocTransfer
  simp only [BitVec.getLsbD_extractLsb', BitVec.getLsbD_append]
  interval_cases i <;> simp

theorem class_encodeSwap (c : Cond) (byte : Bool) (rn rd rm : RegNum) : fld (encodeSwap c byte rn rd rm) 25 3 = 0b000#3 := by
  apply BitVec.eq_of_getLsbD_eq
  intro i hi
  unfold fld encodeSwap
  simp only [BitVec.getLsbD_extractLsb', BitVec.getLsbD_append]
  interval_cases i <;> simp

end Sys2Proof
end

