-- ==== Sys2Proof/Laws/State.lean ====
section
/-! SUPPORT. One lemma a field and a named update: what each update of `State` leaves and what it writes. No later proof
unfolds a record update. -/

namespace Sys2Proof.Machine

/-! ### `State.setPhys` -/

@[simp] theorem State.setPhys_variant (s : State) (p : PhysReg) (v : Word) : (s.setPhys p v).variant = s.variant := rfl
@[simp] theorem State.setPhys_memMap (s : State) (p : PhysReg) (v : Word) : (s.setPhys p v).memMap = s.memMap := rfl
@[simp] theorem State.setPhys_regs (s : State) (p : PhysReg) (v : Word) : (s.setPhys p v).regs = s.regs.set p.index v := rfl
@[simp] theorem State.setPhys_cpsr (s : State) (p : PhysReg) (v : Word) : (s.setPhys p v).cpsr = s.cpsr := rfl
@[simp] theorem State.setPhys_spsrFiq (s : State) (p : PhysReg) (v : Word) : (s.setPhys p v).spsrFiq = s.spsrFiq := rfl
@[simp] theorem State.setPhys_spsrIrq (s : State) (p : PhysReg) (v : Word) : (s.setPhys p v).spsrIrq = s.spsrIrq := rfl
@[simp] theorem State.setPhys_spsrSvc (s : State) (p : PhysReg) (v : Word) : (s.setPhys p v).spsrSvc = s.spsrSvc := rfl
@[simp] theorem State.setPhys_spsrAbt (s : State) (p : PhysReg) (v : Word) : (s.setPhys p v).spsrAbt = s.spsrAbt := rfl
@[simp] theorem State.setPhys_spsrUnd (s : State) (p : PhysReg) (v : Word) : (s.setPhys p v).spsrUnd = s.spsrUnd := rfl
@[simp] theorem State.setPhys_pc (s : State) (p : PhysReg) (v : Word) : (s.setPhys p v).pc = s.pc := rfl
@[simp] theorem State.setPhys_mem (s : State) (p : PhysReg) (v : Word) : (s.setPhys p v).mem = s.mem := rfl
@[simp] theorem State.setPhys_storedWords (s : State) (p : PhysReg) (v : Word) : (s.setPhys p v).storedWords = s.storedWords :=
  rfl
@[simp] theorem State.setPhys_lock (s : State) (p : PhysReg) (v : Word) : (s.setPhys p v).lock = s.lock := rfl
@[simp] theorem State.setPhys_coprocs (s : State) (p : PhysReg) (v : Word) : (s.setPhys p v).coprocs = s.coprocs := rfl
@[simp] theorem State.setPhys_inputs (s : State) (p : PhysReg) (v : Word) : (s.setPhys p v).inputs = s.inputs := rfl
@[simp] theorem State.setPhys_draws (s : State) (p : PhysReg) (v : Word) : (s.setPhys p v).draws = s.draws := rfl

/-! ### `State.setCpsr` -/

@[simp] theorem State.setCpsr_variant (s : State) (c : Cpsr) : (s.setCpsr c).variant = s.variant := rfl
@[simp] theorem State.setCpsr_memMap (s : State) (c : Cpsr) : (s.setCpsr c).memMap = s.memMap := rfl
@[simp] theorem State.setCpsr_regs (s : State) (c : Cpsr) : (s.setCpsr c).regs = s.regs := rfl
@[simp] theorem State.setCpsr_cpsr (s : State) (c : Cpsr) : (s.setCpsr c).cpsr = c := rfl
@[simp] theorem State.setCpsr_spsrFiq (s : State) (c : Cpsr) : (s.setCpsr c).spsrFiq = s.spsrFiq := rfl
@[simp] theorem State.setCpsr_spsrIrq (s : State) (c : Cpsr) : (s.setCpsr c).spsrIrq = s.spsrIrq := rfl
@[simp] theorem State.setCpsr_spsrSvc (s : State) (c : Cpsr) : (s.setCpsr c).spsrSvc = s.spsrSvc := rfl
@[simp] theorem State.setCpsr_spsrAbt (s : State) (c : Cpsr) : (s.setCpsr c).spsrAbt = s.spsrAbt := rfl
@[simp] theorem State.setCpsr_spsrUnd (s : State) (c : Cpsr) : (s.setCpsr c).spsrUnd = s.spsrUnd := rfl
@[simp] theorem State.setCpsr_pc (s : State) (c : Cpsr) : (s.setCpsr c).pc = s.pc := rfl
@[simp] theorem State.setCpsr_mem (s : State) (c : Cpsr) : (s.setCpsr c).mem = s.mem := rfl
@[simp] theorem State.setCpsr_storedWords (s : State) (c : Cpsr) : (s.setCpsr c).storedWords = s.storedWords := rfl
@[simp] theorem State.setCpsr_lock (s : State) (c : Cpsr) : (s.setCpsr c).lock = s.lock := rfl
@[simp] theorem State.setCpsr_coprocs (s : State) (c : Cpsr) : (s.setCpsr c).coprocs = s.coprocs := rfl
@[simp] theorem State.setCpsr_inputs (s : State) (c : Cpsr) : (s.setCpsr c).inputs = s.inputs := rfl
@[simp] theorem State.setCpsr_draws (s : State) (c : Cpsr) : (s.setCpsr c).draws = s.draws := rfl

/-! ### `State.drawn` -/

@[simp] theorem State.drawn_variant (s : State) (n : Nat) : (s.drawn n).variant = s.variant := rfl
@[simp] theorem State.drawn_memMap (s : State) (n : Nat) : (s.drawn n).memMap = s.memMap := rfl
@[simp] theorem State.drawn_regs (s : State) (n : Nat) : (s.drawn n).regs = s.regs := rfl
@[simp] theorem State.drawn_cpsr (s : State) (n : Nat) : (s.drawn n).cpsr = s.cpsr := rfl
@[simp] theorem State.drawn_spsrFiq (s : State) (n : Nat) : (s.drawn n).spsrFiq = s.spsrFiq := rfl
@[simp] theorem State.drawn_spsrIrq (s : State) (n : Nat) : (s.drawn n).spsrIrq = s.spsrIrq := rfl
@[simp] theorem State.drawn_spsrSvc (s : State) (n : Nat) : (s.drawn n).spsrSvc = s.spsrSvc := rfl
@[simp] theorem State.drawn_spsrAbt (s : State) (n : Nat) : (s.drawn n).spsrAbt = s.spsrAbt := rfl
@[simp] theorem State.drawn_spsrUnd (s : State) (n : Nat) : (s.drawn n).spsrUnd = s.spsrUnd := rfl
@[simp] theorem State.drawn_pc (s : State) (n : Nat) : (s.drawn n).pc = s.pc := rfl
@[simp] theorem State.drawn_mem (s : State) (n : Nat) : (s.drawn n).mem = s.mem := rfl
@[simp] theorem State.drawn_storedWords (s : State) (n : Nat) : (s.drawn n).storedWords = s.storedWords := rfl
@[simp] theorem State.drawn_lock (s : State) (n : Nat) : (s.drawn n).lock = s.lock := rfl
@[simp] theorem State.drawn_coprocs (s : State) (n : Nat) : (s.drawn n).coprocs = s.coprocs := rfl
@[simp] theorem State.drawn_inputs (s : State) (n : Nat) : (s.drawn n).inputs = s.inputs := rfl
@[simp] theorem State.drawn_draws (s : State) (n : Nat) : (s.drawn n).draws = s.draws + n := rfl

/-! ### `State.jump` -/

@[simp] theorem State.jump_variant (s : State) (a : Word) : (s.jump a).variant = s.variant := rfl
@[simp] theorem State.jump_memMap (s : State) (a : Word) : (s.jump a).memMap = s.memMap := rfl
@[simp] theorem State.jump_regs (s : State) (a : Word) : (s.jump a).regs = s.regs := rfl
@[simp] theorem State.jump_cpsr (s : State) (a : Word) : (s.jump a).cpsr = s.cpsr := rfl
@[simp] theorem State.jump_spsrFiq (s : State) (a : Word) : (s.jump a).spsrFiq = s.spsrFiq := rfl
@[simp] theorem State.jump_spsrIrq (s : State) (a : Word) : (s.jump a).spsrIrq = s.spsrIrq := rfl
@[simp] theorem State.jump_spsrSvc (s : State) (a : Word) : (s.jump a).spsrSvc = s.spsrSvc := rfl
@[simp] theorem State.jump_spsrAbt (s : State) (a : Word) : (s.jump a).spsrAbt = s.spsrAbt := rfl
@[simp] theorem State.jump_spsrUnd (s : State) (a : Word) : (s.jump a).spsrUnd = s.spsrUnd := rfl
@[simp] theorem State.jump_pc (s : State) (a : Word) : (s.jump a).pc = a := rfl
@[simp] theorem State.jump_mem (s : State) (a : Word) : (s.jump a).mem = s.mem := rfl
@[simp] theorem State.jump_storedWords (s : State) (a : Word) : (s.jump a).storedWords = if s.variant.isUncached then [] else s.storedWords :=
  rfl
@[simp] theorem State.jump_lock (s : State) (a : Word) : (s.jump a).lock = s.lock := rfl
@[simp] theorem State.jump_coprocs (s : State) (a : Word) : (s.jump a).coprocs = s.coprocs := rfl
@[simp] theorem State.jump_inputs (s : State) (a : Word) : (s.jump a).inputs = s.inputs := rfl
@[simp] theorem State.jump_draws (s : State) (a : Word) : (s.jump a).draws = s.draws := rfl

/-! ### `State.storeWord` -/

@[simp] theorem State.storeWord_variant (s : State) (a v : Word) : (s.storeWord a v).variant = s.variant := rfl
@[simp] theorem State.storeWord_memMap (s : State) (a v : Word) : (s.storeWord a v).memMap = s.memMap := rfl
@[simp] theorem State.storeWord_regs (s : State) (a v : Word) : (s.storeWord a v).regs = s.regs := rfl
@[simp] theorem State.storeWord_cpsr (s : State) (a v : Word) : (s.storeWord a v).cpsr = s.cpsr := rfl
@[simp] theorem State.storeWord_spsrFiq (s : State) (a v : Word) : (s.storeWord a v).spsrFiq = s.spsrFiq := rfl
@[simp] theorem State.storeWord_spsrIrq (s : State) (a v : Word) : (s.storeWord a v).spsrIrq = s.spsrIrq := rfl
@[simp] theorem State.storeWord_spsrSvc (s : State) (a v : Word) : (s.storeWord a v).spsrSvc = s.spsrSvc := rfl
@[simp] theorem State.storeWord_spsrAbt (s : State) (a v : Word) : (s.storeWord a v).spsrAbt = s.spsrAbt := rfl
@[simp] theorem State.storeWord_spsrUnd (s : State) (a v : Word) : (s.storeWord a v).spsrUnd = s.spsrUnd := rfl
@[simp] theorem State.storeWord_pc (s : State) (a v : Word) : (s.storeWord a v).pc = s.pc := rfl
@[simp] theorem State.storeWord_mem (s : State) (a v : Word) : (s.storeWord a v).mem = writeMemWord s.mem a v := rfl
@[simp] theorem State.storeWord_storedWords (s : State) (a v : Word) : (s.storeWord a v).storedWords = insertStored s.storedWords (wordBase a) :=
  rfl
@[simp] theorem State.storeWord_lock (s : State) (a v : Word) : (s.storeWord a v).lock = s.lock := rfl
@[simp] theorem State.storeWord_coprocs (s : State) (a v : Word) : (s.storeWord a v).coprocs = s.coprocs := rfl
@[simp] theorem State.storeWord_inputs (s : State) (a v : Word) : (s.storeWord a v).inputs = s.inputs := rfl
@[simp] theorem State.storeWord_draws (s : State) (a v : Word) : (s.storeWord a v).draws = s.draws := rfl

/-! ### `State.storeByte` -/

@[simp] theorem State.storeByte_variant (s : State) (a : Word) (v : Byte) : (s.storeByte a v).variant = s.variant := rfl
@[simp] theorem State.storeByte_memMap (s : State) (a : Word) (v : Byte) : (s.storeByte a v).memMap = s.memMap := rfl
@[simp] theorem State.storeByte_regs (s : State) (a : Word) (v : Byte) : (s.storeByte a v).regs = s.regs := rfl
@[simp] theorem State.storeByte_cpsr (s : State) (a : Word) (v : Byte) : (s.storeByte a v).cpsr = s.cpsr := rfl
@[simp] theorem State.storeByte_spsrFiq (s : State) (a : Word) (v : Byte) : (s.storeByte a v).spsrFiq = s.spsrFiq := rfl
@[simp] theorem State.storeByte_spsrIrq (s : State) (a : Word) (v : Byte) : (s.storeByte a v).spsrIrq = s.spsrIrq := rfl
@[simp] theorem State.storeByte_spsrSvc (s : State) (a : Word) (v : Byte) : (s.storeByte a v).spsrSvc = s.spsrSvc := rfl
@[simp] theorem State.storeByte_spsrAbt (s : State) (a : Word) (v : Byte) : (s.storeByte a v).spsrAbt = s.spsrAbt := rfl
@[simp] theorem State.storeByte_spsrUnd (s : State) (a : Word) (v : Byte) : (s.storeByte a v).spsrUnd = s.spsrUnd := rfl
@[simp] theorem State.storeByte_pc (s : State) (a : Word) (v : Byte) : (s.storeByte a v).pc = s.pc := rfl
@[simp] theorem State.storeByte_mem (s : State) (a : Word) (v : Byte) : (s.storeByte a v).mem = writeMem s.mem a.toNat v :=
  rfl
@[simp] theorem State.storeByte_storedWords (s : State) (a : Word) (v : Byte) : (s.storeByte a v).storedWords = insertStored s.storedWords (wordBase a) :=
  rfl
@[simp] theorem State.storeByte_lock (s : State) (a : Word) (v : Byte) : (s.storeByte a v).lock = s.lock := rfl
@[simp] theorem State.storeByte_coprocs (s : State) (a : Word) (v : Byte) : (s.storeByte a v).coprocs = s.coprocs := rfl
@[simp] theorem State.storeByte_inputs (s : State) (a : Word) (v : Byte) : (s.storeByte a v).inputs = s.inputs := rfl
@[simp] theorem State.storeByte_draws (s : State) (a : Word) (v : Byte) : (s.storeByte a v).draws = s.draws := rfl

/-! ### `State.setLock` -/

@[simp] theorem State.setLock_variant (s : State) (h : Bool) : (s.setLock h).variant = s.variant := rfl
@[simp] theorem State.setLock_memMap (s : State) (h : Bool) : (s.setLock h).memMap = s.memMap := rfl
@[simp] theorem State.setLock_regs (s : State) (h : Bool) : (s.setLock h).regs = s.regs := rfl
@[simp] theorem State.setLock_cpsr (s : State) (h : Bool) : (s.setLock h).cpsr = s.cpsr := rfl
@[simp] theorem State.setLock_spsrFiq (s : State) (h : Bool) : (s.setLock h).spsrFiq = s.spsrFiq := rfl
@[simp] theorem State.setLock_spsrIrq (s : State) (h : Bool) : (s.setLock h).spsrIrq = s.spsrIrq := rfl
@[simp] theorem State.setLock_spsrSvc (s : State) (h : Bool) : (s.setLock h).spsrSvc = s.spsrSvc := rfl
@[simp] theorem State.setLock_spsrAbt (s : State) (h : Bool) : (s.setLock h).spsrAbt = s.spsrAbt := rfl
@[simp] theorem State.setLock_spsrUnd (s : State) (h : Bool) : (s.setLock h).spsrUnd = s.spsrUnd := rfl
@[simp] theorem State.setLock_pc (s : State) (h : Bool) : (s.setLock h).pc = s.pc := rfl
@[simp] theorem State.setLock_mem (s : State) (h : Bool) : (s.setLock h).mem = s.mem := rfl
@[simp] theorem State.setLock_storedWords (s : State) (h : Bool) : (s.setLock h).storedWords = s.storedWords := rfl
@[simp] theorem State.setLock_lock (s : State) (h : Bool) : (s.setLock h).lock = h := rfl
@[simp] theorem State.setLock_coprocs (s : State) (h : Bool) : (s.setLock h).coprocs = s.coprocs := rfl
@[simp] theorem State.setLock_inputs (s : State) (h : Bool) : (s.setLock h).inputs = s.inputs := rfl
@[simp] theorem State.setLock_draws (s : State) (h : Bool) : (s.setLock h).draws = s.draws := rfl

/-! ### `State.setCoproc` -/

@[simp] theorem State.setCoproc_variant (s : State) (p : RegNum) (c : Coproc) : (s.setCoproc p c).variant = s.variant := rfl
@[simp] theorem State.setCoproc_memMap (s : State) (p : RegNum) (c : Coproc) : (s.setCoproc p c).memMap = s.memMap := rfl
@[simp] theorem State.setCoproc_regs (s : State) (p : RegNum) (c : Coproc) : (s.setCoproc p c).regs = s.regs := rfl
@[simp] theorem State.setCoproc_cpsr (s : State) (p : RegNum) (c : Coproc) : (s.setCoproc p c).cpsr = s.cpsr := rfl
@[simp] theorem State.setCoproc_spsrFiq (s : State) (p : RegNum) (c : Coproc) : (s.setCoproc p c).spsrFiq = s.spsrFiq := rfl
@[simp] theorem State.setCoproc_spsrIrq (s : State) (p : RegNum) (c : Coproc) : (s.setCoproc p c).spsrIrq = s.spsrIrq := rfl
@[simp] theorem State.setCoproc_spsrSvc (s : State) (p : RegNum) (c : Coproc) : (s.setCoproc p c).spsrSvc = s.spsrSvc := rfl
@[simp] theorem State.setCoproc_spsrAbt (s : State) (p : RegNum) (c : Coproc) : (s.setCoproc p c).spsrAbt = s.spsrAbt := rfl
@[simp] theorem State.setCoproc_spsrUnd (s : State) (p : RegNum) (c : Coproc) : (s.setCoproc p c).spsrUnd = s.spsrUnd := rfl
@[simp] theorem State.setCoproc_pc (s : State) (p : RegNum) (c : Coproc) : (s.setCoproc p c).pc = s.pc := rfl
@[simp] theorem State.setCoproc_mem (s : State) (p : RegNum) (c : Coproc) : (s.setCoproc p c).mem = s.mem := rfl
@[simp] theorem State.setCoproc_storedWords (s : State) (p : RegNum) (c : Coproc) : (s.setCoproc p c).storedWords = s.storedWords :=
  rfl
@[simp] theorem State.setCoproc_lock (s : State) (p : RegNum) (c : Coproc) : (s.setCoproc p c).lock = s.lock := rfl
@[simp] theorem State.setCoproc_coprocs (s : State) (p : RegNum) (c : Coproc) : (s.setCoproc p c).coprocs = s.coprocs.set p.toNat (some c) p.isLt :=
  rfl
@[simp] theorem State.setCoproc_inputs (s : State) (p : RegNum) (c : Coproc) : (s.setCoproc p c).inputs = s.inputs := rfl
@[simp] theorem State.setCoproc_draws (s : State) (p : RegNum) (c : Coproc) : (s.setCoproc p c).draws = s.draws := rfl

/-! ### `State.inputsTaken` -/

@[simp] theorem State.inputsTaken_variant (s : State) : (s.inputsTaken).variant = s.variant := rfl
@[simp] theorem State.inputsTaken_memMap (s : State) : (s.inputsTaken).memMap = s.memMap := rfl
@[simp] theorem State.inputsTaken_regs (s : State) : (s.inputsTaken).regs = s.regs := rfl
@[simp] theorem State.inputsTaken_cpsr (s : State) : (s.inputsTaken).cpsr = s.cpsr := rfl
@[simp] theorem State.inputsTaken_spsrFiq (s : State) : (s.inputsTaken).spsrFiq = s.spsrFiq := rfl
@[simp] theorem State.inputsTaken_spsrIrq (s : State) : (s.inputsTaken).spsrIrq = s.spsrIrq := rfl
@[simp] theorem State.inputsTaken_spsrSvc (s : State) : (s.inputsTaken).spsrSvc = s.spsrSvc := rfl
@[simp] theorem State.inputsTaken_spsrAbt (s : State) : (s.inputsTaken).spsrAbt = s.spsrAbt := rfl
@[simp] theorem State.inputsTaken_spsrUnd (s : State) : (s.inputsTaken).spsrUnd = s.spsrUnd := rfl
@[simp] theorem State.inputsTaken_pc (s : State) : (s.inputsTaken).pc = s.pc := rfl
@[simp] theorem State.inputsTaken_mem (s : State) : (s.inputsTaken).mem = s.mem := rfl
@[simp] theorem State.inputsTaken_storedWords (s : State) : (s.inputsTaken).storedWords = s.storedWords := rfl
@[simp] theorem State.inputsTaken_lock (s : State) : (s.inputsTaken).lock = s.lock := rfl
@[simp] theorem State.inputsTaken_coprocs (s : State) : (s.inputsTaken).coprocs = s.coprocs := rfl
@[simp] theorem State.inputsTaken_inputs (s : State) : (s.inputsTaken).inputs = s.inputs.rest := rfl
@[simp] theorem State.inputsTaken_draws (s : State) : (s.inputsTaken).draws = s.draws := rfl

/-! ### `State.setSpsrOf` -/

@[simp] theorem State.setSpsrOf_variant (s : State) (b : Bank) (p : Psr) : (s.setSpsrOf b p).variant = s.variant :=
  by cases b <;> rfl
@[simp] theorem State.setSpsrOf_memMap (s : State) (b : Bank) (p : Psr) : (s.setSpsrOf b p).memMap = s.memMap :=
  by cases b <;> rfl
@[simp] theorem State.setSpsrOf_regs (s : State) (b : Bank) (p : Psr) : (s.setSpsrOf b p).regs = s.regs := by cases b <;> rfl
@[simp] theorem State.setSpsrOf_cpsr (s : State) (b : Bank) (p : Psr) : (s.setSpsrOf b p).cpsr = s.cpsr := by cases b <;> rfl
@[simp] theorem State.setSpsrOf_pc (s : State) (b : Bank) (p : Psr) : (s.setSpsrOf b p).pc = s.pc := by cases b <;> rfl
@[simp] theorem State.setSpsrOf_mem (s : State) (b : Bank) (p : Psr) : (s.setSpsrOf b p).mem = s.mem := by cases b <;> rfl
@[simp] theorem State.setSpsrOf_storedWords (s : State) (b : Bank) (p : Psr) : (s.setSpsrOf b p).storedWords = s.storedWords :=
  by cases b <;> rfl
@[simp] theorem State.setSpsrOf_lock (s : State) (b : Bank) (p : Psr) : (s.setSpsrOf b p).lock = s.lock := by cases b <;> rfl
@[simp] theorem State.setSpsrOf_coprocs (s : State) (b : Bank) (p : Psr) : (s.setSpsrOf b p).coprocs = s.coprocs :=
  by cases b <;> rfl
@[simp] theorem State.setSpsrOf_inputs (s : State) (b : Bank) (p : Psr) : (s.setSpsrOf b p).inputs = s.inputs :=
  by cases b <;> rfl
@[simp] theorem State.setSpsrOf_draws (s : State) (b : Bank) (p : Psr) : (s.setSpsrOf b p).draws = s.draws :=
  by cases b <;> rfl

/-! ### `State.setBankReg` -/

@[simp] theorem State.setBankReg_variant (s : State) (b : Bank) (i : RegNum) (v : Word) : (s.setBankReg b i v).variant = s.variant :=
  by unfold State.setBankReg; split <;> rfl
@[simp] theorem State.setBankReg_memMap (s : State) (b : Bank) (i : RegNum) (v : Word) : (s.setBankReg b i v).memMap = s.memMap :=
  by unfold State.setBankReg; split <;> rfl
@[simp] theorem State.setBankReg_cpsr (s : State) (b : Bank) (i : RegNum) (v : Word) : (s.setBankReg b i v).cpsr = s.cpsr :=
  by unfold State.setBankReg; split <;> rfl
@[simp] theorem State.setBankReg_spsrFiq (s : State) (b : Bank) (i : RegNum) (v : Word) : (s.setBankReg b i v).spsrFiq = s.spsrFiq :=
  by unfold State.setBankReg; split <;> rfl
@[simp] theorem State.setBankReg_spsrIrq (s : State) (b : Bank) (i : RegNum) (v : Word) : (s.setBankReg b i v).spsrIrq = s.spsrIrq :=
  by unfold State.setBankReg; split <;> rfl
@[simp] theorem State.setBankReg_spsrSvc (s : State) (b : Bank) (i : RegNum) (v : Word) : (s.setBankReg b i v).spsrSvc = s.spsrSvc :=
  by unfold State.setBankReg; split <;> rfl
@[simp] theorem State.setBankReg_spsrAbt (s : State) (b : Bank) (i : RegNum) (v : Word) : (s.setBankReg b i v).spsrAbt = s.spsrAbt :=
  by unfold State.setBankReg; split <;> rfl
@[simp] theorem State.setBankReg_spsrUnd (s : State) (b : Bank) (i : RegNum) (v : Word) : (s.setBankReg b i v).spsrUnd = s.spsrUnd :=
  by unfold State.setBankReg; split <;> rfl
@[simp] theorem State.setBankReg_pc (s : State) (b : Bank) (i : RegNum) (v : Word) : (s.setBankReg b i v).pc = s.pc :=
  by unfold State.setBankReg; split <;> rfl
@[simp] theorem State.setBankReg_mem (s : State) (b : Bank) (i : RegNum) (v : Word) : (s.setBankReg b i v).mem = s.mem :=
  by unfold State.setBankReg; split <;> rfl
@[simp] theorem State.setBankReg_storedWords (s : State) (b : Bank) (i : RegNum) (v : Word) : (s.setBankReg b i v).storedWords = s.storedWords :=
  by unfold State.setBankReg; split <;> rfl
@[simp] theorem State.setBankReg_lock (s : State) (b : Bank) (i : RegNum) (v : Word) : (s.setBankReg b i v).lock = s.lock :=
  by unfold State.setBankReg; split <;> rfl
@[simp] theorem State.setBankReg_coprocs (s : State) (b : Bank) (i : RegNum) (v : Word) : (s.setBankReg b i v).coprocs = s.coprocs :=
  by unfold State.setBankReg; split <;> rfl
@[simp] theorem State.setBankReg_inputs (s : State) (b : Bank) (i : RegNum) (v : Word) : (s.setBankReg b i v).inputs = s.inputs :=
  by unfold State.setBankReg; split <;> rfl
@[simp] theorem State.setBankReg_draws (s : State) (b : Bank) (i : RegNum) (v : Word) : (s.setBankReg b i v).draws = s.draws :=
  by unfold State.setBankReg; split <;> rfl

/-! ### `State.setX` -/

@[simp] theorem State.setX_variant (s : State) (i : RegNum) (v : Word) : (s.setX i v).variant = s.variant :=
  by simp [State.setX]
@[simp] theorem State.setX_memMap (s : State) (i : RegNum) (v : Word) : (s.setX i v).memMap = s.memMap :=
  by simp [State.setX]
@[simp] theorem State.setX_cpsr (s : State) (i : RegNum) (v : Word) : (s.setX i v).cpsr = s.cpsr := by simp [State.setX]
@[simp] theorem State.setX_spsrFiq (s : State) (i : RegNum) (v : Word) : (s.setX i v).spsrFiq = s.spsrFiq :=
  by simp [State.setX]
@[simp] theorem State.setX_spsrIrq (s : State) (i : RegNum) (v : Word) : (s.setX i v).spsrIrq = s.spsrIrq :=
  by simp [State.setX]
@[simp] theorem State.setX_spsrSvc (s : State) (i : RegNum) (v : Word) : (s.setX i v).spsrSvc = s.spsrSvc :=
  by simp [State.setX]
@[simp] theorem State.setX_spsrAbt (s : State) (i : RegNum) (v : Word) : (s.setX i v).spsrAbt = s.spsrAbt :=
  by simp [State.setX]
@[simp] theorem State.setX_spsrUnd (s : State) (i : RegNum) (v : Word) : (s.setX i v).spsrUnd = s.spsrUnd :=
  by simp [State.setX]
@[simp] theorem State.setX_pc (s : State) (i : RegNum) (v : Word) : (s.setX i v).pc = s.pc := by simp [State.setX]
@[simp] theorem State.setX_mem (s : State) (i : RegNum) (v : Word) : (s.setX i v).mem = s.mem := by simp [State.setX]
@[simp] theorem State.setX_storedWords (s : State) (i : RegNum) (v : Word) : (s.setX i v).storedWords = s.storedWords :=
  by simp [State.setX]
@[simp] theorem State.setX_lock (s : State) (i : RegNum) (v : Word) : (s.setX i v).lock = s.lock := by simp [State.setX]
@[simp] theorem State.setX_coprocs (s : State) (i : RegNum) (v : Word) : (s.setX i v).coprocs = s.coprocs :=
  by simp [State.setX]
@[simp] theorem State.setX_inputs (s : State) (i : RegNum) (v : Word) : (s.setX i v).inputs = s.inputs :=
  by simp [State.setX]
@[simp] theorem State.setX_draws (s : State) (i : RegNum) (v : Word) : (s.setX i v).draws = s.draws := by simp [State.setX]

/-! ### `State.setXu` -/

@[simp] theorem State.setXu_variant (s : State) (i : RegNum) (v : Word) : (s.setXu i v).variant = s.variant :=
  by simp [State.setXu]
@[simp] theorem State.setXu_memMap (s : State) (i : RegNum) (v : Word) : (s.setXu i v).memMap = s.memMap :=
  by simp [State.setXu]
@[simp] theorem State.setXu_cpsr (s : State) (i : RegNum) (v : Word) : (s.setXu i v).cpsr = s.cpsr := by simp [State.setXu]
@[simp] theorem State.setXu_spsrFiq (s : State) (i : RegNum) (v : Word) : (s.setXu i v).spsrFiq = s.spsrFiq :=
  by simp [State.setXu]
@[simp] theorem State.setXu_spsrIrq (s : State) (i : RegNum) (v : Word) : (s.setXu i v).spsrIrq = s.spsrIrq :=
  by simp [State.setXu]
@[simp] theorem State.setXu_spsrSvc (s : State) (i : RegNum) (v : Word) : (s.setXu i v).spsrSvc = s.spsrSvc :=
  by simp [State.setXu]
@[simp] theorem State.setXu_spsrAbt (s : State) (i : RegNum) (v : Word) : (s.setXu i v).spsrAbt = s.spsrAbt :=
  by simp [State.setXu]
@[simp] theorem State.setXu_spsrUnd (s : State) (i : RegNum) (v : Word) : (s.setXu i v).spsrUnd = s.spsrUnd :=
  by simp [State.setXu]
@[simp] theorem State.setXu_pc (s : State) (i : RegNum) (v : Word) : (s.setXu i v).pc = s.pc := by simp [State.setXu]
@[simp] theorem State.setXu_mem (s : State) (i : RegNum) (v : Word) : (s.setXu i v).mem = s.mem := by simp [State.setXu]
@[simp] theorem State.setXu_storedWords (s : State) (i : RegNum) (v : Word) : (s.setXu i v).storedWords = s.storedWords :=
  by simp [State.setXu]
@[simp] theorem State.setXu_lock (s : State) (i : RegNum) (v : Word) : (s.setXu i v).lock = s.lock := by simp [State.setXu]
@[simp] theorem State.setXu_coprocs (s : State) (i : RegNum) (v : Word) : (s.setXu i v).coprocs = s.coprocs :=
  by simp [State.setXu]
@[simp] theorem State.setXu_inputs (s : State) (i : RegNum) (v : Word) : (s.setXu i v).inputs = s.inputs :=
  by simp [State.setXu]
@[simp] theorem State.setXu_draws (s : State) (i : RegNum) (v : Word) : (s.setXu i v).draws = s.draws :=
  by simp [State.setXu]

/-! ### `State.writeBackIf` -/

@[simp] theorem State.writeBackIf_variant (s : State) (w : Bool) (i : RegNum) (v : Word) : (s.writeBackIf w i v).variant = s.variant :=
  by cases w <;> simp [State.writeBackIf]
@[simp] theorem State.writeBackIf_memMap (s : State) (w : Bool) (i : RegNum) (v : Word) : (s.writeBackIf w i v).memMap = s.memMap :=
  by cases w <;> simp [State.writeBackIf]
@[simp] theorem State.writeBackIf_cpsr (s : State) (w : Bool) (i : RegNum) (v : Word) : (s.writeBackIf w i v).cpsr = s.cpsr :=
  by cases w <;> simp [State.writeBackIf]
@[simp] theorem State.writeBackIf_spsrFiq (s : State) (w : Bool) (i : RegNum) (v : Word) : (s.writeBackIf w i v).spsrFiq = s.spsrFiq :=
  by cases w <;> simp [State.writeBackIf]
@[simp] theorem State.writeBackIf_spsrIrq (s : State) (w : Bool) (i : RegNum) (v : Word) : (s.writeBackIf w i v).spsrIrq = s.spsrIrq :=
  by cases w <;> simp [State.writeBackIf]
@[simp] theorem State.writeBackIf_spsrSvc (s : State) (w : Bool) (i : RegNum) (v : Word) : (s.writeBackIf w i v).spsrSvc = s.spsrSvc :=
  by cases w <;> simp [State.writeBackIf]
@[simp] theorem State.writeBackIf_spsrAbt (s : State) (w : Bool) (i : RegNum) (v : Word) : (s.writeBackIf w i v).spsrAbt = s.spsrAbt :=
  by cases w <;> simp [State.writeBackIf]
@[simp] theorem State.writeBackIf_spsrUnd (s : State) (w : Bool) (i : RegNum) (v : Word) : (s.writeBackIf w i v).spsrUnd = s.spsrUnd :=
  by cases w <;> simp [State.writeBackIf]
@[simp] theorem State.writeBackIf_pc (s : State) (w : Bool) (i : RegNum) (v : Word) : (s.writeBackIf w i v).pc = s.pc :=
  by cases w <;> simp [State.writeBackIf]
@[simp] theorem State.writeBackIf_mem (s : State) (w : Bool) (i : RegNum) (v : Word) : (s.writeBackIf w i v).mem = s.mem :=
  by cases w <;> simp [State.writeBackIf]
@[simp] theorem State.writeBackIf_storedWords (s : State) (w : Bool) (i : RegNum) (v : Word) : (s.writeBackIf w i v).storedWords = s.storedWords :=
  by cases w <;> simp [State.writeBackIf]
@[simp] theorem State.writeBackIf_lock (s : State) (w : Bool) (i : RegNum) (v : Word) : (s.writeBackIf w i v).lock = s.lock :=
  by cases w <;> simp [State.writeBackIf]
@[simp] theorem State.writeBackIf_coprocs (s : State) (w : Bool) (i : RegNum) (v : Word) : (s.writeBackIf w i v).coprocs = s.coprocs :=
  by cases w <;> simp [State.writeBackIf]
@[simp] theorem State.writeBackIf_inputs (s : State) (w : Bool) (i : RegNum) (v : Word) : (s.writeBackIf w i v).inputs = s.inputs :=
  by cases w <;> simp [State.writeBackIf]
@[simp] theorem State.writeBackIf_draws (s : State) (w : Bool) (i : RegNum) (v : Word) : (s.writeBackIf w i v).draws = s.draws :=
  by cases w <;> simp [State.writeBackIf]

/-! ### `State.abortBase` -/

@[simp] theorem State.abortBase_variant (s : State) (w : Bool) (i : RegNum) (v : Word) : (s.abortBase w i v).variant = s.variant :=
  by unfold State.abortBase; split <;> simp
@[simp] theorem State.abortBase_memMap (s : State) (w : Bool) (i : RegNum) (v : Word) : (s.abortBase w i v).memMap = s.memMap :=
  by unfold State.abortBase; split <;> simp
@[simp] theorem State.abortBase_cpsr (s : State) (w : Bool) (i : RegNum) (v : Word) : (s.abortBase w i v).cpsr = s.cpsr :=
  by unfold State.abortBase; split <;> simp
@[simp] theorem State.abortBase_spsrFiq (s : State) (w : Bool) (i : RegNum) (v : Word) : (s.abortBase w i v).spsrFiq = s.spsrFiq :=
  by unfold State.abortBase; split <;> simp
@[simp] theorem State.abortBase_spsrIrq (s : State) (w : Bool) (i : RegNum) (v : Word) : (s.abortBase w i v).spsrIrq = s.spsrIrq :=
  by unfold State.abortBase; split <;> simp
@[simp] theorem State.abortBase_spsrSvc (s : State) (w : Bool) (i : RegNum) (v : Word) : (s.abortBase w i v).spsrSvc = s.spsrSvc :=
  by unfold State.abortBase; split <;> simp
@[simp] theorem State.abortBase_spsrAbt (s : State) (w : Bool) (i : RegNum) (v : Word) : (s.abortBase w i v).spsrAbt = s.spsrAbt :=
  by unfold State.abortBase; split <;> simp
@[simp] theorem State.abortBase_spsrUnd (s : State) (w : Bool) (i : RegNum) (v : Word) : (s.abortBase w i v).spsrUnd = s.spsrUnd :=
  by unfold State.abortBase; split <;> simp
@[simp] theorem State.abortBase_pc (s : State) (w : Bool) (i : RegNum) (v : Word) : (s.abortBase w i v).pc = s.pc :=
  by unfold State.abortBase; split <;> simp
@[simp] theorem State.abortBase_mem (s : State) (w : Bool) (i : RegNum) (v : Word) : (s.abortBase w i v).mem = s.mem :=
  by unfold State.abortBase; split <;> simp
@[simp] theorem State.abortBase_storedWords (s : State) (w : Bool) (i : RegNum) (v : Word) : (s.abortBase w i v).storedWords = s.storedWords :=
  by unfold State.abortBase; split <;> simp
@[simp] theorem State.abortBase_lock (s : State) (w : Bool) (i : RegNum) (v : Word) : (s.abortBase w i v).lock = s.lock :=
  by unfold State.abortBase; split <;> simp
@[simp] theorem State.abortBase_coprocs (s : State) (w : Bool) (i : RegNum) (v : Word) : (s.abortBase w i v).coprocs = s.coprocs :=
  by unfold State.abortBase; split <;> simp
@[simp] theorem State.abortBase_inputs (s : State) (w : Bool) (i : RegNum) (v : Word) : (s.abortBase w i v).inputs = s.inputs :=
  by unfold State.abortBase; split <;> simp
@[simp] theorem State.abortBase_draws (s : State) (w : Bool) (i : RegNum) (v : Word) : (s.abortBase w i v).draws = s.draws :=
  by unfold State.abortBase; split <;> simp

/-! ### `State.writePc` -/

@[simp] theorem State.writePc_variant (s : State) (v : Word) : (s.writePc v).variant = s.variant := rfl
@[simp] theorem State.writePc_memMap (s : State) (v : Word) : (s.writePc v).memMap = s.memMap := rfl
@[simp] theorem State.writePc_regs (s : State) (v : Word) : (s.writePc v).regs = s.regs := rfl
@[simp] theorem State.writePc_cpsr (s : State) (v : Word) : (s.writePc v).cpsr = s.cpsr := rfl
@[simp] theorem State.writePc_spsrFiq (s : State) (v : Word) : (s.writePc v).spsrFiq = s.spsrFiq := rfl
@[simp] theorem State.writePc_spsrIrq (s : State) (v : Word) : (s.writePc v).spsrIrq = s.spsrIrq := rfl
@[simp] theorem State.writePc_spsrSvc (s : State) (v : Word) : (s.writePc v).spsrSvc = s.spsrSvc := rfl
@[simp] theorem State.writePc_spsrAbt (s : State) (v : Word) : (s.writePc v).spsrAbt = s.spsrAbt := rfl
@[simp] theorem State.writePc_spsrUnd (s : State) (v : Word) : (s.writePc v).spsrUnd = s.spsrUnd := rfl
@[simp] theorem State.writePc_pc (s : State) (v : Word) : (s.writePc v).pc = if s.is26 then v &&& 0x03FFFFFC#32 else v &&& 0xFFFFFFFC#32 :=
  rfl
@[simp] theorem State.writePc_mem (s : State) (v : Word) : (s.writePc v).mem = s.mem := rfl
@[simp] theorem State.writePc_storedWords (s : State) (v : Word) : (s.writePc v).storedWords = if s.variant.isUncached then [] else s.storedWords :=
  rfl
@[simp] theorem State.writePc_lock (s : State) (v : Word) : (s.writePc v).lock = s.lock := rfl
@[simp] theorem State.writePc_coprocs (s : State) (v : Word) : (s.writePc v).coprocs = s.coprocs := rfl
@[simp] theorem State.writePc_inputs (s : State) (v : Word) : (s.writePc v).inputs = s.inputs := rfl
@[simp] theorem State.writePc_draws (s : State) (v : Word) : (s.writePc v).draws = s.draws := rfl

/-! ### `State.writePcPsr` -/

@[simp] theorem State.writePcPsr_variant (s : State) (v : Word) : (s.writePcPsr v).variant = s.variant := rfl
@[simp] theorem State.writePcPsr_memMap (s : State) (v : Word) : (s.writePcPsr v).memMap = s.memMap := rfl
@[simp] theorem State.writePcPsr_regs (s : State) (v : Word) : (s.writePcPsr v).regs = s.regs := rfl
@[simp] theorem State.writePcPsr_cpsr (s : State) (v : Word) : (s.writePcPsr v).cpsr = s.cpsr.writePsr26 v := rfl
@[simp] theorem State.writePcPsr_spsrFiq (s : State) (v : Word) : (s.writePcPsr v).spsrFiq = s.spsrFiq := rfl
@[simp] theorem State.writePcPsr_spsrIrq (s : State) (v : Word) : (s.writePcPsr v).spsrIrq = s.spsrIrq := rfl
@[simp] theorem State.writePcPsr_spsrSvc (s : State) (v : Word) : (s.writePcPsr v).spsrSvc = s.spsrSvc := rfl
@[simp] theorem State.writePcPsr_spsrAbt (s : State) (v : Word) : (s.writePcPsr v).spsrAbt = s.spsrAbt := rfl
@[simp] theorem State.writePcPsr_spsrUnd (s : State) (v : Word) : (s.writePcPsr v).spsrUnd = s.spsrUnd := rfl
@[simp] theorem State.writePcPsr_pc (s : State) (v : Word) : (s.writePcPsr v).pc = v &&& 0x03FFFFFC#32 := rfl
@[simp] theorem State.writePcPsr_mem (s : State) (v : Word) : (s.writePcPsr v).mem = s.mem := rfl
@[simp] theorem State.writePcPsr_storedWords (s : State) (v : Word) : (s.writePcPsr v).storedWords = if s.variant.isUncached then [] else s.storedWords :=
  rfl
@[simp] theorem State.writePcPsr_lock (s : State) (v : Word) : (s.writePcPsr v).lock = s.lock := rfl
@[simp] theorem State.writePcPsr_coprocs (s : State) (v : Word) : (s.writePcPsr v).coprocs = s.coprocs := rfl
@[simp] theorem State.writePcPsr_inputs (s : State) (v : Word) : (s.writePcPsr v).inputs = s.inputs := rfl
@[simp] theorem State.writePcPsr_draws (s : State) (v : Word) : (s.writePcPsr v).draws = s.draws := rfl

/-! ### `State.takeException` -/

@[simp] theorem State.takeException_variant (s : State) (k : Exc) (r : Word) : (s.takeException k r).variant = s.variant :=
  by cases hv : s.variant.isArm6Plus <;> simp [State.takeException, hv]
@[simp] theorem State.takeException_memMap (s : State) (k : Exc) (r : Word) : (s.takeException k r).memMap = s.memMap :=
  by cases hv : s.variant.isArm6Plus <;> simp [State.takeException, hv]
@[simp] theorem State.takeException_cpsr (s : State) (k : Exc) (r : Word) : (s.takeException k r).cpsr = { s.cpsr with i := true, f := s.cpsr.f || k.setsF, mode := k.mode s.variant } :=
  by cases hv : s.variant.isArm6Plus <;> simp [State.takeException, hv]
@[simp] theorem State.takeException_pc (s : State) (k : Exc) (r : Word) : (s.takeException k r).pc = k.vector :=
  by cases hv : s.variant.isArm6Plus <;> simp [State.takeException, hv]
@[simp] theorem State.takeException_mem (s : State) (k : Exc) (r : Word) : (s.takeException k r).mem = s.mem :=
  by cases hv : s.variant.isArm6Plus <;> simp [State.takeException, hv]
@[simp] theorem State.takeException_storedWords (s : State) (k : Exc) (r : Word) : (s.takeException k r).storedWords = if s.variant.isUncached then [] else s.storedWords :=
  by cases hv : s.variant.isArm6Plus <;> simp [State.takeException, hv]
@[simp] theorem State.takeException_lock (s : State) (k : Exc) (r : Word) : (s.takeException k r).lock = s.lock :=
  by cases hv : s.variant.isArm6Plus <;> simp [State.takeException, hv]
@[simp] theorem State.takeException_coprocs (s : State) (k : Exc) (r : Word) : (s.takeException k r).coprocs = s.coprocs :=
  by cases hv : s.variant.isArm6Plus <;> simp [State.takeException, hv]
@[simp] theorem State.takeException_inputs (s : State) (k : Exc) (r : Word) : (s.takeException k r).inputs = s.inputs :=
  by cases hv : s.variant.isArm6Plus <;> simp [State.takeException, hv]
@[simp] theorem State.takeException_draws (s : State) (k : Exc) (r : Word) : (s.takeException k r).draws = s.draws :=
  by cases hv : s.variant.isArm6Plus <;> simp [State.takeException, hv]

/-! ### `State.setMulFlags` -/

@[simp] theorem State.setMulFlags_variant (s : State) (r : Word) : (s.setMulFlags r).variant = s.variant := rfl
@[simp] theorem State.setMulFlags_memMap (s : State) (r : Word) : (s.setMulFlags r).memMap = s.memMap := rfl
@[simp] theorem State.setMulFlags_regs (s : State) (r : Word) : (s.setMulFlags r).regs = s.regs := rfl
@[simp] theorem State.setMulFlags_cpsr (s : State) (r : Word) : (s.setMulFlags r).cpsr = { s.cpsr with n := r.getLsbD 31, z := r == 0#32, c := s.anyBit 0 } :=
  rfl
@[simp] theorem State.setMulFlags_spsrFiq (s : State) (r : Word) : (s.setMulFlags r).spsrFiq = s.spsrFiq := rfl
@[simp] theorem State.setMulFlags_spsrIrq (s : State) (r : Word) : (s.setMulFlags r).spsrIrq = s.spsrIrq := rfl
@[simp] theorem State.setMulFlags_spsrSvc (s : State) (r : Word) : (s.setMulFlags r).spsrSvc = s.spsrSvc := rfl
@[simp] theorem State.setMulFlags_spsrAbt (s : State) (r : Word) : (s.setMulFlags r).spsrAbt = s.spsrAbt := rfl
@[simp] theorem State.setMulFlags_spsrUnd (s : State) (r : Word) : (s.setMulFlags r).spsrUnd = s.spsrUnd := rfl
@[simp] theorem State.setMulFlags_pc (s : State) (r : Word) : (s.setMulFlags r).pc = s.pc := rfl
@[simp] theorem State.setMulFlags_mem (s : State) (r : Word) : (s.setMulFlags r).mem = s.mem := rfl
@[simp] theorem State.setMulFlags_storedWords (s : State) (r : Word) : (s.setMulFlags r).storedWords = s.storedWords := rfl
@[simp] theorem State.setMulFlags_lock (s : State) (r : Word) : (s.setMulFlags r).lock = s.lock := rfl
@[simp] theorem State.setMulFlags_coprocs (s : State) (r : Word) : (s.setMulFlags r).coprocs = s.coprocs := rfl
@[simp] theorem State.setMulFlags_inputs (s : State) (r : Word) : (s.setMulFlags r).inputs = s.inputs := rfl
@[simp] theorem State.setMulFlags_draws (s : State) (r : Word) : (s.setMulFlags r).draws = s.draws + 1 := rfl

/-! ### `State.setMullFlags` -/

@[simp] theorem State.setMullFlags_variant (s : State) (r : BitVec 64) : (s.setMullFlags r).variant = s.variant := rfl
@[simp] theorem State.setMullFlags_memMap (s : State) (r : BitVec 64) : (s.setMullFlags r).memMap = s.memMap := rfl
@[simp] theorem State.setMullFlags_regs (s : State) (r : BitVec 64) : (s.setMullFlags r).regs = s.regs := rfl
@[simp] theorem State.setMullFlags_cpsr (s : State) (r : BitVec 64) : (s.setMullFlags r).cpsr = { s.cpsr with n := r.getLsbD 63, z := r == 0#64, c := s.anyBit 0, v := s.anyBit 1 } :=
  rfl
@[simp] theorem State.setMullFlags_spsrFiq (s : State) (r : BitVec 64) : (s.setMullFlags r).spsrFiq = s.spsrFiq := rfl
@[simp] theorem State.setMullFlags_spsrIrq (s : State) (r : BitVec 64) : (s.setMullFlags r).spsrIrq = s.spsrIrq := rfl
@[simp] theorem State.setMullFlags_spsrSvc (s : State) (r : BitVec 64) : (s.setMullFlags r).spsrSvc = s.spsrSvc := rfl
@[simp] theorem State.setMullFlags_spsrAbt (s : State) (r : BitVec 64) : (s.setMullFlags r).spsrAbt = s.spsrAbt := rfl
@[simp] theorem State.setMullFlags_spsrUnd (s : State) (r : BitVec 64) : (s.setMullFlags r).spsrUnd = s.spsrUnd := rfl
@[simp] theorem State.setMullFlags_pc (s : State) (r : BitVec 64) : (s.setMullFlags r).pc = s.pc := rfl
@[simp] theorem State.setMullFlags_mem (s : State) (r : BitVec 64) : (s.setMullFlags r).mem = s.mem := rfl
@[simp] theorem State.setMullFlags_storedWords (s : State) (r : BitVec 64) : (s.setMullFlags r).storedWords = s.storedWords :=
  rfl
@[simp] theorem State.setMullFlags_lock (s : State) (r : BitVec 64) : (s.setMullFlags r).lock = s.lock := rfl
@[simp] theorem State.setMullFlags_coprocs (s : State) (r : BitVec 64) : (s.setMullFlags r).coprocs = s.coprocs := rfl
@[simp] theorem State.setMullFlags_inputs (s : State) (r : BitVec 64) : (s.setMullFlags r).inputs = s.inputs := rfl
@[simp] theorem State.setMullFlags_draws (s : State) (r : BitVec 64) : (s.setMullFlags r).draws = s.draws + 2 := rfl

/-! ### `State.storeWords` -/

@[simp] theorem State.storeWords_variant (l : List (Word × Word)) (s : State) : (s.storeWords l).variant = s.variant := by
  induction l generalizing s with
  | nil => rfl
  | cons _ _ ih => exact (ih _).trans rfl
@[simp] theorem State.storeWords_memMap (l : List (Word × Word)) (s : State) : (s.storeWords l).memMap = s.memMap := by
  induction l generalizing s with
  | nil => rfl
  | cons _ _ ih => exact (ih _).trans rfl
@[simp] theorem State.storeWords_regs (l : List (Word × Word)) (s : State) : (s.storeWords l).regs = s.regs := by
  induction l generalizing s with
  | nil => rfl
  | cons _ _ ih => exact (ih _).trans rfl
@[simp] theorem State.storeWords_cpsr (l : List (Word × Word)) (s : State) : (s.storeWords l).cpsr = s.cpsr := by
  induction l generalizing s with
  | nil => rfl
  | cons _ _ ih => exact (ih _).trans rfl
@[simp] theorem State.storeWords_spsrFiq (l : List (Word × Word)) (s : State) : (s.storeWords l).spsrFiq = s.spsrFiq := by
  induction l generalizing s with
  | nil => rfl
  | cons _ _ ih => exact (ih _).trans rfl
@[simp] theorem State.storeWords_spsrIrq (l : List (Word × Word)) (s : State) : (s.storeWords l).spsrIrq = s.spsrIrq := by
  induction l generalizing s with
  | nil => rfl
  | cons _ _ ih => exact (ih _).trans rfl
@[simp] theorem State.storeWords_spsrSvc (l : List (Word × Word)) (s : State) : (s.storeWords l).spsrSvc = s.spsrSvc := by
  induction l generalizing s with
  | nil => rfl
  | cons _ _ ih => exact (ih _).trans rfl
@[simp] theorem State.storeWords_spsrAbt (l : List (Word × Word)) (s : State) : (s.storeWords l).spsrAbt = s.spsrAbt := by
  induction l generalizing s with
  | nil => rfl
  | cons _ _ ih => exact (ih _).trans rfl
@[simp] theorem State.storeWords_spsrUnd (l : List (Word × Word)) (s : State) : (s.storeWords l).spsrUnd = s.spsrUnd := by
  induction l generalizing s with
  | nil => rfl
  | cons _ _ ih => exact (ih _).trans rfl
@[simp] theorem State.storeWords_pc (l : List (Word × Word)) (s : State) : (s.storeWords l).pc = s.pc := by
  induction l generalizing s with
  | nil => rfl
  | cons _ _ ih => exact (ih _).trans rfl
@[simp] theorem State.storeWords_lock (l : List (Word × Word)) (s : State) : (s.storeWords l).lock = s.lock := by
  induction l generalizing s with
  | nil => rfl
  | cons _ _ ih => exact (ih _).trans rfl
@[simp] theorem State.storeWords_coprocs (l : List (Word × Word)) (s : State) : (s.storeWords l).coprocs = s.coprocs := by
  induction l generalizing s with
  | nil => rfl
  | cons _ _ ih => exact (ih _).trans rfl
@[simp] theorem State.storeWords_inputs (l : List (Word × Word)) (s : State) : (s.storeWords l).inputs = s.inputs := by
  induction l generalizing s with
  | nil => rfl
  | cons _ _ ih => exact (ih _).trans rfl
@[simp] theorem State.storeWords_draws (l : List (Word × Word)) (s : State) : (s.storeWords l).draws = s.draws := by
  induction l generalizing s with
  | nil => rfl
  | cons _ _ ih => exact (ih _).trans rfl

/-! ### `State.writeRegs` -/

@[simp] theorem State.writeRegs_variant (u : Bool) (l : List (RegNum × Word)) (s : State) :
    (s.writeRegs u l).variant = s.variant := by
  induction l generalizing s with
  | nil => rfl
  | cons _ _ ih => rw [State.writeRegs, ih]; split <;> [rfl; (cases u <;> simp)]
@[simp] theorem State.writeRegs_memMap (u : Bool) (l : List (RegNum × Word)) (s : State) :
    (s.writeRegs u l).memMap = s.memMap := by
  induction l generalizing s with
  | nil => rfl
  | cons _ _ ih => rw [State.writeRegs, ih]; split <;> [rfl; (cases u <;> simp)]
@[simp] theorem State.writeRegs_cpsr (u : Bool) (l : List (RegNum × Word)) (s : State) :
    (s.writeRegs u l).cpsr = s.cpsr := by
  induction l generalizing s with
  | nil => rfl
  | cons _ _ ih => rw [State.writeRegs, ih]; split <;> [rfl; (cases u <;> simp)]
@[simp] theorem State.writeRegs_spsrFiq (u : Bool) (l : List (RegNum × Word)) (s : State) :
    (s.writeRegs u l).spsrFiq = s.spsrFiq := by
  induction l generalizing s with
  | nil => rfl
  | cons _ _ ih => rw [State.writeRegs, ih]; split <;> [rfl; (cases u <;> simp)]
@[simp] theorem State.writeRegs_spsrIrq (u : Bool) (l : List (RegNum × Word)) (s : State) :
    (s.writeRegs u l).spsrIrq = s.spsrIrq := by
  induction l generalizing s with
  | nil => rfl
  | cons _ _ ih => rw [State.writeRegs, ih]; split <;> [rfl; (cases u <;> simp)]
@[simp] theorem State.writeRegs_spsrSvc (u : Bool) (l : List (RegNum × Word)) (s : State) :
    (s.writeRegs u l).spsrSvc = s.spsrSvc := by
  induction l generalizing s with
  | nil => rfl
  | cons _ _ ih => rw [State.writeRegs, ih]; split <;> [rfl; (cases u <;> simp)]
@[simp] theorem State.writeRegs_spsrAbt (u : Bool) (l : List (RegNum × Word)) (s : State) :
    (s.writeRegs u l).spsrAbt = s.spsrAbt := by
  induction l generalizing s with
  | nil => rfl
  | cons _ _ ih => rw [State.writeRegs, ih]; split <;> [rfl; (cases u <;> simp)]
@[simp] theorem State.writeRegs_spsrUnd (u : Bool) (l : List (RegNum × Word)) (s : State) :
    (s.writeRegs u l).spsrUnd = s.spsrUnd := by
  induction l generalizing s with
  | nil => rfl
  | cons _ _ ih => rw [State.writeRegs, ih]; split <;> [rfl; (cases u <;> simp)]
@[simp] theorem State.writeRegs_pc (u : Bool) (l : List (RegNum × Word)) (s : State) :
    (s.writeRegs u l).pc = s.pc := by
  induction l generalizing s with
  | nil => rfl
  | cons _ _ ih => rw [State.writeRegs, ih]; split <;> [rfl; (cases u <;> simp)]
@[simp] theorem State.writeRegs_mem (u : Bool) (l : List (RegNum × Word)) (s : State) :
    (s.writeRegs u l).mem = s.mem := by
  induction l generalizing s with
  | nil => rfl
  | cons _ _ ih => rw [State.writeRegs, ih]; split <;> [rfl; (cases u <;> simp)]
@[simp] theorem State.writeRegs_storedWords (u : Bool) (l : List (RegNum × Word)) (s : State) :
    (s.writeRegs u l).storedWords = s.storedWords := by
  induction l generalizing s with
  | nil => rfl
  | cons _ _ ih => rw [State.writeRegs, ih]; split <;> [rfl; (cases u <;> simp)]
@[simp] theorem State.writeRegs_lock (u : Bool) (l : List (RegNum × Word)) (s : State) :
    (s.writeRegs u l).lock = s.lock := by
  induction l generalizing s with
  | nil => rfl
  | cons _ _ ih => rw [State.writeRegs, ih]; split <;> [rfl; (cases u <;> simp)]
@[simp] theorem State.writeRegs_coprocs (u : Bool) (l : List (RegNum × Word)) (s : State) :
    (s.writeRegs u l).coprocs = s.coprocs := by
  induction l generalizing s with
  | nil => rfl
  | cons _ _ ih => rw [State.writeRegs, ih]; split <;> [rfl; (cases u <;> simp)]
@[simp] theorem State.writeRegs_inputs (u : Bool) (l : List (RegNum × Word)) (s : State) :
    (s.writeRegs u l).inputs = s.inputs := by
  induction l generalizing s with
  | nil => rfl
  | cons _ _ ih => rw [State.writeRegs, ih]; split <;> [rfl; (cases u <;> simp)]
@[simp] theorem State.writeRegs_draws (u : Bool) (l : List (RegNum × Word)) (s : State) :
    (s.writeRegs u l).draws = s.draws := by
  induction l generalizing s with
  | nil => rfl
  | cons _ _ ih => rw [State.writeRegs, ih]; split <;> [rfl; (cases u <;> simp)]

end Sys2Proof.Machine
end

