-- ==== Sys2Proof/Laws/Memory.lean ====
section
/-! SUPPORT. Memory: every operation keeps the canonical form, a read after a write gives the value written there and the
old value elsewhere (20_memory.md R73). -/

namespace Sys2Proof.Machine

/-- Reading after writing one byte. -/
theorem readMem_writeMem {lo : Nat} {m : Memory} (h : memWfFrom lo m = true) (a a' : Nat) (b : Byte) :
    readMem (writeMem m a b) a' = if a = a' then b else readMem m a' := by
  have below : ∀ (lo : Nat) (m : Memory), memWfFrom lo m = true → ∀ a < lo, readMem m a = unlistedByte := by
    intro lo m
    induction m generalizing lo with
    | nil => intros; rfl
    | cons x m ih =>
      obtain ⟨k, v⟩ := x
      intro hw a ha
      simp only [memWfFrom, Bool.and_eq_true, decide_eq_true_eq, bne_iff_ne] at hw
      have hne : k ≠ a := by omega
      simp only [readMem, hne, if_false]
      exact ih (k + 1) hw.2 a (by omega)
  induction m generalizing lo with
  | nil =>
    unfold writeMem
    by_cases hb : b = unlistedByte
    · subst hb; simp [readMem]
    · simp [hb, readMem]
  | cons x m ih =>
    obtain ⟨k, v⟩ := x
    have hw := h
    simp only [memWfFrom, Bool.and_eq_true, decide_eq_true_eq, bne_iff_ne] at hw
    unfold writeMem
    by_cases h1 : a < k
    · by_cases hb : b = unlistedByte
      · subst hb
        simp only [h1, if_true]
        by_cases haa : a = a'
        · subst haa
          simp only [if_true]
          exact below k ((k, v) :: m) (by simpa [memWfFrom, hw.1.2, hw.2] using hw.1.1.2) a h1
        · simp [haa]
      · simp [h1, hb, readMem]
    · by_cases h2 : a = k
      · subst h2
        by_cases hb : b = unlistedByte
        · subst hb
          simp only [lt_irrefl, if_false, if_true]
          by_cases haa : a = a'
          · subst haa; simp only [if_true]; exact below (a + 1) m hw.2 a (by omega)
          · simp [haa, readMem]
        · by_cases haa : a = a' <;> simp [hb, haa, readMem]
      · simp only [h1, h2, if_false, readMem]
        by_cases hk : k = a'
        · subst hk; simp [h2]
        · simp only [hk, if_false]; exact ih hw.2

/-- A write keeps the canonical form. -/
theorem memWfFrom_writeMem {lo : Nat} {m : Memory} (h : memWfFrom lo m = true) {a : Nat} (hlo : lo ≤ a) (ha : a < 2 ^ 32)
    (b : Byte) : memWfFrom lo (writeMem m a b) = true := by
  induction m generalizing lo with
  | nil =>
    unfold writeMem
    by_cases hb : b = unlistedByte <;> simp [hb, memWfFrom, hlo]
    simpa using ha
  | cons x m ih =>
    obtain ⟨k, v⟩ := x
    simp only [memWfFrom, Bool.and_eq_true, decide_eq_true_eq, bne_iff_ne] at h
    obtain ⟨⟨⟨h1, h2⟩, h3⟩, h4⟩ := h
    have weaken : memWfFrom lo m = true := by
      cases m with
      | nil => rfl
      | cons y m =>
        simp only [memWfFrom, Bool.and_eq_true, decide_eq_true_eq, bne_iff_ne] at h4 ⊢
        exact ⟨⟨⟨by omega, h4.1.1.2⟩, h4.1.2⟩, h4.2⟩
    unfold writeMem
    by_cases c1 : a < k
    · by_cases hb : b = unlistedByte
      · simp [c1, hb, memWfFrom, h1, h3, h4]; simpa using h2
      · have : a + 1 ≤ k := c1
        simp [c1, hb, memWfFrom, h3, h4, hlo, this]
        exact ⟨by simpa using ha, by simpa using h2⟩
    · by_cases c2 : a = k
      · subst c2
        by_cases hb : b = unlistedByte
        · simpa [hb] using weaken
        · simp [hb, memWfFrom, h1, h4]; simpa using h2
      · have := ih h4 (show k + 1 ≤ a by omega)
        simp [c1, c2, memWfFrom, h1, h3, this]; simpa using h2

theorem byteAddr_lt (a : Word) (k : Nat) : byteAddr a k < 2 ^ 32 := (a + BitVec.ofNat 32 k).isLt

/-- The four bytes of a word lie at different addresses. -/
theorem byteAddr_inj (a : Word) {j k : Nat} (hj : j < 4) (hk : k < 4) (h : byteAddr a j = byteAddr a k) : j = k := by
  unfold byteAddr at h
  have : BitVec.ofNat 32 j = BitVec.ofNat 32 k := by
    have := BitVec.eq_of_toNat_eq h
    bv_omega
  have := congrArg BitVec.toNat this
  simp only [BitVec.toNat_ofNat] at this
  omega

/-- A write of one byte at an address of 32 bits keeps the canonical form. -/
theorem Memory.wf_writeMem {m : Memory} (h : Memory.wf m = true) {a : Nat} (ha : a < 2 ^ 32) (b : Byte) :
    Memory.wf (writeMem m a b) = true :=
  memWfFrom_writeMem h (Nat.zero_le a) ha b

/-- A write of a word keeps the canonical form. -/
theorem Memory.wf_writeMemWord {m : Memory} (h : Memory.wf m = true) (a v : Word) : Memory.wf (writeMemWord m a v) = true := by
  unfold writeMemWord
  exact Memory.wf_writeMem (Memory.wf_writeMem (Memory.wf_writeMem (Memory.wf_writeMem h (byteAddr_lt a 0) _) (byteAddr_lt a 1) _)
    (byteAddr_lt a 2) _) (byteAddr_lt a 3) _

/-- Reading one byte after a word was written: the k-th byte of the word at its k-th address, the old byte elsewhere. -/
theorem readMem_writeMemWord {m : Memory} (h : Memory.wf m = true) (a v : Word) (a' : Nat) :
    readMem (writeMemWord m a v) a' =
      if byteAddr a 3 = a' then byteOfWord v 3 else if byteAddr a 2 = a' then byteOfWord v 2
      else if byteAddr a 1 = a' then byteOfWord v 1 else if byteAddr a 0 = a' then byteOfWord v 0 else readMem m a' := by
  have h0 := Memory.wf_writeMem h (byteAddr_lt a 0) (byteOfWord v 0)
  have h1 := Memory.wf_writeMem h0 (byteAddr_lt a 1) (byteOfWord v 1)
  have h2 := Memory.wf_writeMem h1 (byteAddr_lt a 2) (byteOfWord v 2)
  unfold writeMemWord
  rw [readMem_writeMem h2, readMem_writeMem h1, readMem_writeMem h0, readMem_writeMem h]

/-- Reassembling a word from its bytes (20_memory.md R73). -/
theorem wordOfBytes_byteOfWord (v : Word) :
    wordOfBytes (byteOfWord v 0) (byteOfWord v 1) (byteOfWord v 2) (byteOfWord v 3) = v := by
  unfold wordOfBytes byteOfWord
  apply BitVec.eq_of_getLsbD_eq
  intro i hi
  simp only [BitVec.getLsbD_append, BitVec.getLsbD_extractLsb']
  split
  · simp_all
  · split
    · rw [decide_eq_true (by omega), Bool.true_and]; congr 1; omega
    · split
      · rw [decide_eq_true (by omega), Bool.true_and]; congr 1; omega
      · rw [decide_eq_true (by omega), Bool.true_and]; congr 1; omega

/-- A word read where it was written. -/
theorem readMemWord_writeMemWord_self {m : Memory} (h : Memory.wf m = true) (a v : Word) :
    readMemWord (writeMemWord m a v) a = v := by
  have ne : ∀ {j k : Nat}, j < 4 → k < 4 → j ≠ k → byteAddr a j ≠ byteAddr a k :=
    fun hj hk hne e => hne (byteAddr_inj a hj hk e)
  unfold readMemWord
  rw [readMem_writeMemWord h, readMem_writeMemWord h, readMem_writeMemWord h, readMem_writeMemWord h]
  simp only [if_true, ne (j := 3) (k := 0) (by decide) (by decide) (by decide), ne (j := 3) (k := 1) (by decide) (by decide) (by decide),
    ne (j := 3) (k := 2) (by decide) (by decide) (by decide), ne (j := 2) (k := 0) (by decide) (by decide) (by decide),
    ne (j := 2) (k := 1) (by decide) (by decide) (by decide), ne (j := 1) (k := 0) (by decide) (by decide) (by decide), if_false]
  exact wordOfBytes_byteOfWord v

/-- A byte outside a word that was written reads as before. -/
theorem readMem_writeMemWord_of_ne {m : Memory} (h : Memory.wf m = true) (a v : Word) {a' : Nat}
    (hne : ∀ k < 4, byteAddr a k ≠ a') : readMem (writeMemWord m a v) a' = readMem m a' := by
  rw [readMem_writeMemWord h]
  simp [hne 0 (by decide), hne 1 (by decide), hne 2 (by decide), hne 3 (by decide)]

/-- Storing words keeps the canonical form. -/
theorem State.memWf_storeWords {l : List (Word × Word)} {s : State} (h : Memory.wf s.mem = true) :
    Memory.wf (s.storeWords l).mem = true := by
  induction l generalizing s with
  | nil => exact h
  | cons x l ih => exact ih (by simpa using Memory.wf_writeMemWord h _ _)

/-- Storing words leaves every byte outside them. -/
theorem State.byteAt_storeWords {l : List (Word × Word)} {s : State} (h : Memory.wf s.mem = true) {a : Nat}
    (hne : ∀ x ∈ l, ∀ k < 4, byteAddr x.1 k ≠ a) : (s.storeWords l).byteAt a = s.byteAt a := by
  induction l generalizing s with
  | nil => rfl
  | cons x l ih =>
    have h1 : Memory.wf (s.storeWord x.1 x.2).mem = true := by simpa using Memory.wf_writeMemWord h _ _
    refine (ih h1 fun y hy => hne y (List.mem_cons_of_mem _ hy)).trans ?_
    unfold State.byteAt
    rw [State.storeWord_mem]
    exact readMem_writeMemWord_of_ne h _ _ (hne x List.mem_cons_self)

/-- Adding a stored word keeps the rising order. -/
theorem insertStored_pairwise {l : List Nat} (h : l.Pairwise (· < ·)) (a : Nat) : (insertStored l a).Pairwise (· < ·) := by
  have mem : ∀ (l : List Nat) (a b : Nat), b ∈ insertStored l a → b = a ∨ b ∈ l := by
    intro l a b
    induction l with
    | nil => simp [insertStored]
    | cons c l ih =>
      unfold insertStored
      split
      · simp
      · split
        · intro hb; exact Or.inr hb
        · simp only [List.mem_cons]; rintro (rfl | hb)
          · exact Or.inr (Or.inl rfl)
          · exact (ih hb).imp_right Or.inr
  induction l with
  | nil => simp [insertStored]
  | cons c l ih =>
    unfold insertStored
    rw [List.pairwise_cons] at h
    split
    · rename_i hac
      refine List.pairwise_cons.mpr ⟨fun b hb => ?_, List.pairwise_cons.mpr h⟩
      rcases List.mem_cons.mp hb with rfl | hb
      · exact hac
      · exact hac.trans (h.1 b hb)
    · split
      · exact List.pairwise_cons.mpr h
      · refine List.pairwise_cons.mpr ⟨fun b hb => ?_, ih h.2⟩
        rcases mem l a b hb with rfl | hb
        · omega
        · exact h.1 b hb

/-- The stored words after one more store. -/
theorem mem_insertStored (l : List Nat) (a b : Nat) : b ∈ insertStored l a ↔ b = a ∨ b ∈ l := by
  induction l with
  | nil => simp [insertStored]
  | cons c l ih =>
    unfold insertStored
    split
    · simp
    · split
      · rename_i h; subst h; simp
      · simp only [List.mem_cons, ih]; tauto

theorem wordBase_mod_four (a : Word) : wordBase a % 4 = 0 := by
  unfold wordBase
  have : (a &&& 0xFFFFFFFC#32).extractLsb' 0 2 = 0#2 := by
    ext i hi
    have : i = 0 ∨ i = 1 := by omega
    rcases this with rfl | rfl <;> simp
  have := congrArg BitVec.toNat this
  simpa using this

theorem wordBase_lt (a : Word) : wordBase a < 2 ^ 32 := (a &&& 0xFFFFFFFC#32).isLt

end Sys2Proof.Machine
end

