-- ==== Sys2Proof/Laws/Ops.lean ====
section
/-! SUPPORT. For each shared operation, everything it can do: if it answers a next state, then how. The later proofs cite these
and unfold no operation. -/

namespace Sys2Proof.Machine

/-! ### Stepping on and returning -/

theorem State.advanceFrom_eq_next {start s t : State} :
    start.advanceFrom s = .next t ↔ start.pc ≠ start.pcTop ∧ t = { s with pc := start.pc + 4 } := by
  unfold State.advanceFrom
  by_cases h : start.pc = start.pcTop <;> simp [h, eq_comm]

theorem State.whenPassed_eq_next {s t : State} {c : Cond} {body : Result} :
    s.whenPassed c body = .next t ↔
      (condPassed s.cpsr c = true ∧ body = .next t) ∨ (condPassed s.cpsr c = false ∧ s.advanceFrom s = .next t) := by
  unfold State.whenPassed
  by_cases h : condPassed s.cpsr c = true <;> simp [h]

theorem State.restoreCpsr_eq_next {s t : State} {v : Word} :
    s.restoreCpsr v = .next t ↔ ∃ p m, s.spsr = some p ∧ Mode.ofBits p.m = some m ∧
      (m.is26 = true → above64M (s.writePc v).pc = false) ∧
      t = (s.writePc v).setCpsr ⟨p.n, p.z, p.c, p.v, p.i, p.f, m⟩ := by
  unfold State.restoreCpsr
  cases hp : s.spsr with
  | none => simp
  | some p =>
    cases hm : Mode.ofBits p.m with
    | none => simp [hm]
    | some m =>
      have hcond : (m.is26 && above64M (s.writePc v).pc) = true ↔ ¬ (m.is26 = true → above64M (s.writePc v).pc = false) := by
        cases m.is26 <;> cases above64M (s.writePc v).pc <;> decide
      by_cases hc : (m.is26 && above64M (s.writePc v).pc) = true
      · simp only [hm, hc, if_true]
        refine ⟨(by intro h; cases h), ?_⟩
        rintro ⟨p', m', hp', hm', h, -⟩
        cases hp'
        cases hm.symm.trans hm'
        exact absurd h (hcond.mp hc)
      · simp only [hm, hc]
        constructor
        · intro h
          exact ⟨p, m, rfl, hm, not_not.mp (fun h' => hc (hcond.mpr h')), by simpa [eq_comm] using h⟩
        · rintro ⟨p', m', hp', hm', -, rfl⟩
          cases hp'
          cases hm.symm.trans hm'
          rfl

theorem State.returnTo_eq_next {s t : State} {v : Word} :
    s.returnTo v = .next t ↔
      (s.is26 = true ∧ t = s.writePcPsr v) ∨ (s.is26 = false ∧ s.restoreCpsr v = .next t) := by
  unfold State.returnTo
  cases h : s.is26 <;> simp [eq_comm]

/-! ### Data processing -/

theorem State.writeResult_eq_next {s t : State} {sf : Bool} {rd : RegNum} {res : Word} {p : Cpsr} :
    s.writeResult sf rd res p = .next t ↔
      (rd = 15#4 ∧ sf = true ∧ s.returnTo res = .next t) ∨
      (rd = 15#4 ∧ sf = false ∧ t = s.writePc res) ∨
      (rd ≠ 15#4 ∧ s.advanceFrom (if sf then (s.setX rd res).setCpsr p else s.setX rd res) = .next t) := by
  unfold State.writeResult
  by_cases h : rd = 15#4 <;> cases sf <;> simp [h, eq_comm]

theorem logicalOp_eq_next {f : Word → Word → Word} {c : Cond} {sf : Bool} {rd rn : RegNum} {op2 : Op2} {s t : State} :
    logicalOp f c sf rd rn op2 s = .next t ↔
      (condPassed s.cpsr c = false ∧ s.advanceFrom s = .next t) ∨
      (condPassed s.cpsr c = true ∧ r15InRegisterShift rn op2 = false ∧
        s.writeResult sf rd (f (s.readRn rn) (s.shifterOperand op2).val)
          (s.cpsr.setLogical (f (s.readRn rn) (s.shifterOperand op2).val) (s.shifterOperand op2).c) = .next t) := by
  unfold logicalOp
  rw [State.whenPassed_eq_next, or_comm]
  cases hr : r15InRegisterShift rn op2 <;> simp

theorem arithOp_eq_next {f : Word → Word → Bool → AluOut} {c : Cond} {sf : Bool} {rd rn : RegNum} {op2 : Op2} {s t : State} :
    arithOp f c sf rd rn op2 s = .next t ↔
      (condPassed s.cpsr c = false ∧ s.advanceFrom s = .next t) ∨
      (condPassed s.cpsr c = true ∧ r15InRegisterShift rn op2 = false ∧
        s.writeResult sf rd (f (s.readRn rn) (s.shifterOperand op2).val s.cpsr.c).res
          (s.cpsr.setArith (f (s.readRn rn) (s.shifterOperand op2).val s.cpsr.c)) = .next t) := by
  unfold arithOp
  rw [State.whenPassed_eq_next, or_comm]
  cases hr : r15InRegisterShift rn op2 <;> simp

theorem moveOp_eq_next {f : Word → Word} {c : Cond} {sf : Bool} {rd sbz : RegNum} {op2 : Op2} {s t : State} :
    moveOp f c sf rd sbz op2 s = .next t ↔
      (condPassed s.cpsr c = false ∧ s.advanceFrom s = .next t) ∨
      (condPassed s.cpsr c = true ∧ sbz = 0#4 ∧ op2UsesR15 op2 = false ∧
        s.writeResult sf rd (f (s.shifterOperand op2).val)
          (s.cpsr.setLogical (f (s.shifterOperand op2).val) (s.shifterOperand op2).c) = .next t) := by
  unfold moveOp
  rw [State.whenPassed_eq_next, or_comm]
  by_cases hz : sbz = 0#4 <;> cases hr : op2UsesR15 op2 <;> simp [hz]

theorem testOp_eq_next {f : Word → Word → Word} {c : Cond} {sbz rn : RegNum} {op2 : Op2} {s t : State} :
    testOp f c sbz rn op2 s = .next t ↔
      (condPassed s.cpsr c = false ∧ s.advanceFrom s = .next t) ∨
      (condPassed s.cpsr c = true ∧ sbz = 0#4 ∧ r15InRegisterShift rn op2 = false ∧
        s.advanceFrom (s.setCpsr (s.cpsr.setLogical (f (s.readRn rn) (s.shifterOperand op2).val) (s.shifterOperand op2).c))
          = .next t) := by
  unfold testOp
  rw [State.whenPassed_eq_next, or_comm]
  by_cases hz : sbz = 0#4 <;> cases hr : r15InRegisterShift rn op2 <;> simp [hz]

theorem compareOp_eq_next {f : Word → Word → Bool → AluOut} {c : Cond} {sbz rn : RegNum} {op2 : Op2} {s t : State} :
    compareOp f c sbz rn op2 s = .next t ↔
      (condPassed s.cpsr c = false ∧ s.advanceFrom s = .next t) ∨
      (condPassed s.cpsr c = true ∧ sbz = 0#4 ∧ r15InRegisterShift rn op2 = false ∧
        s.advanceFrom (s.setCpsr (s.cpsr.setArith (f (s.readRn rn) (s.shifterOperand op2).val s.cpsr.c))) = .next t) := by
  unfold compareOp
  rw [State.whenPassed_eq_next, or_comm]
  by_cases hz : sbz = 0#4 <;> cases hr : r15InRegisterShift rn op2 <;> simp [hz]

theorem pFormOp_eq_next {f : Word → Word → Word} {c : Cond} {rn : RegNum} {op2 : Op2} {s t : State} :
    pFormOp f c rn op2 s = .next t ↔
      (condPassed s.cpsr c = false ∧ s.advanceFrom s = .next t) ∨
      (condPassed s.cpsr c = true ∧ r15InRegisterShift rn op2 = false ∧ s.is26 = true ∧
        s.advanceFrom (s.setCpsr (s.cpsr.writePsr26 (f (s.readRn rn) (s.shifterOperand op2).val))) = .next t) := by
  unfold pFormOp
  rw [State.whenPassed_eq_next, or_comm]
  cases hr : r15InRegisterShift rn op2 <;> cases h26 : s.cpsr.mode.is26 <;> simp [h26]

/-! ### Multiplies -/

theorem longMultiply_eq_next {c : Cond} {sf : Bool} {rh rl rs rm : RegNum} {p : BitVec 64} {s t : State} :
    longMultiply c sf rh rl rs rm p s = .next t ↔
      (condPassed s.cpsr c = false ∧ s.advanceFrom s = .next t) ∨
      (condPassed s.cpsr c = true ∧ ¬ (rh = 15#4 ∨ rl = 15#4 ∨ rm = 15#4 ∨ rs = 15#4) ∧ ¬ (rh = rl ∨ rh = rm ∨ rl = rm) ∧
        s.advanceFrom (if sf then ((s.setX rl (p.extractLsb' 0 32)).setX rh (p.extractLsb' 32 32)).setMullFlags p
          else (s.setX rl (p.extractLsb' 0 32)).setX rh (p.extractLsb' 32 32)) = .next t) := by
  unfold longMultiply
  rw [State.whenPassed_eq_next, or_comm]
  by_cases h1 : rh = 15#4 ∨ rl = 15#4 ∨ rm = 15#4 ∨ rs = 15#4
  · simp [h1]
  · by_cases h2 : rh = rl ∨ rh = rm ∨ rl = rm <;> simp [h1, h2]

/-! ### Transfers -/

theorem State.checkedTransfer_eq_next {s t : State} {byte : Bool} {ix : Indexing} {up : Bool} {rn rd : RegNum} {off : Offset}
    {access : Word → Result} :
    s.checkedTransfer byte ix up rn rd off access = .next t ↔
      transferRefusal byte ix rn rd off = none ∧
      (byte = false → isAligned (s.transferAddr ix up rn off) = true) ∧
      s.outOfRange (s.transferAddr ix up rn off) = false ∧ access (s.transferAddr ix up rn off) = .next t := by
  unfold State.checkedTransfer
  cases transferRefusal byte ix rn rd off with
  | some r => simp
  | none =>
    cases byte <;> cases hl : isAligned (s.transferAddr ix up rn off) <;>
      cases hr : s.outOfRange (s.transferAddr ix up rn off) <;> simp [hl, hr]

theorem loadSingle_eq_next {byte : Bool} {c : Cond} {ix : Indexing} {up : Bool} {rn rd : RegNum} {off : Offset} {priv : Priv}
    {s t : State} (h : loadSingle byte c ix up rn rd off priv s = .next t) :
    (condPassed s.cpsr c = false ∧ s.advanceFrom s = .next t) ∨
    (condPassed s.cpsr c = true ∧ s.aborts (s.transferAddr ix up rn off) (transferSize byte) .read priv = true ∧
      (s.abortBase (writesBack ix) rn (s.transferIdx up rn off)).dataAbort = .next t) ∨
    (condPassed s.cpsr c = true ∧ s.aborts (s.transferAddr ix up rn off) (transferSize byte) .read priv = false ∧
      ∃ v : Word, (v = if byte then (s.byteAt (s.transferAddr ix up rn off).toNat).zeroExtend 32
          else s.wordAt (s.transferAddr ix up rn off)) ∧
        ((rd = 15#4 ∧ t = (s.writeBackIf (writesBack ix) rn (s.transferIdx up rn off)).writePc v) ∨
         (rd ≠ 15#4 ∧ s.advanceFrom ((s.writeBackIf (writesBack ix) rn (s.transferIdx up rn off)).setX rd v) = .next t))) := by
  unfold loadSingle at h
  rw [State.whenPassed_eq_next, State.checkedTransfer_eq_next] at h
  rcases h with ⟨hc, -, -, -, h⟩ | h
  · right
    cases ha : s.aborts (s.transferAddr ix up rn off) (transferSize byte) .read priv with
    | true => simp only [ha, if_true] at h; exact .inl ⟨hc, rfl, h⟩
    | false =>
      simp only [ha] at h
      refine .inr ⟨hc, rfl, _, rfl, ?_⟩
      by_cases hd : rd = 15#4
      · simp only [hd] at h
        simp only [hd]
        exact .inl ⟨trivial, by simpa [eq_comm] using h⟩
      · simp only [hd] at h
        exact .inr ⟨hd, by simpa using h⟩
  · exact .inl h

theorem storeSingle_eq_next {byte : Bool} {c : Cond} {ix : Indexing} {up : Bool} {rn rd : RegNum} {off : Offset} {priv : Priv}
    {s t : State} (h : storeSingle byte c ix up rn rd off priv s = .next t) :
    (condPassed s.cpsr c = false ∧ s.advanceFrom s = .next t) ∨
    (condPassed s.cpsr c = true ∧ s.aborts (s.transferAddr ix up rn off) (transferSize byte) .write priv = true ∧
      (s.abortBase (writesBack ix) rn (s.transferIdx up rn off)).dataAbort = .next t) ∨
    (condPassed s.cpsr c = true ∧ s.aborts (s.transferAddr ix up rn off) (transferSize byte) .write priv = false ∧
      s.advanceFrom ((s.storeSingleAt byte rd (s.transferAddr ix up rn off)).writeBackIf (writesBack ix) rn
        (s.transferIdx up rn off)) = .next t) := by
  unfold storeSingle at h
  rw [State.whenPassed_eq_next, State.checkedTransfer_eq_next] at h
  rcases h with ⟨hc, -, -, -, h⟩ | h
  · right
    cases ha : s.aborts (s.transferAddr ix up rn off) (transferSize byte) .write priv with
    | true => simp only [ha, if_true] at h; exact .inl ⟨hc, rfl, h⟩
    | false => simp only [ha] at h; exact .inr ⟨hc, rfl, by simpa using h⟩
  · exact .inl h

theorem State.checkedBlock_eq_next {s t : State} {m : BlockMode} {load hat wb : Bool} {rn : RegNum} {list : BitVec 16}
    {access : List Word → Result} :
    s.checkedBlock m load hat wb rn list access = .next t ↔
      s.blockRefusal load hat wb rn list = none ∧
      isAligned (blockStart m (s.x rn) (listRegs list).length) = true ∧
      (wordAddrs (blockStart m (s.x rn) (listRegs list).length) (listRegs list).length).any s.outOfRange = false ∧
      access (wordAddrs (blockStart m (s.x rn) (listRegs list).length) (listRegs list).length) = .next t := by
  unfold State.checkedBlock
  cases s.blockRefusal load hat wb rn list with
  | some r => simp
  | none =>
    cases hl : isAligned (blockStart m (s.x rn) (listRegs list).length) with
    | false => simp [hl]
    | true =>
      cases hr : (wordAddrs (blockStart m (s.x rn) (listRegs list).length) (listRegs list).length).any s.outOfRange <;>
        simp [hl, hr]

theorem State.loadedBlock_eq_next {s t : State} {hat wb : Bool} {rn : RegNum} {list : BitVec 16} {wbv : Word} {vals : List Word} :
    s.loadedBlock hat wb rn list wbv vals = .next t ↔
      (list.getLsbD 15 = true ∧ hat = true ∧ (((s.writeBackIf wb rn wbv).writeRegs (usesUserBank true hat list)
        ((listRegs list).zip vals)).returnTo (vals.getLastD 0#32)) = .next t) ∨
      (list.getLsbD 15 = true ∧ hat = false ∧ t = (((s.writeBackIf wb rn wbv).writeRegs (usesUserBank true hat list)
        ((listRegs list).zip vals)).writePc (vals.getLastD 0#32))) ∨
      (list.getLsbD 15 = false ∧ s.advanceFrom ((s.writeBackIf wb rn wbv).writeRegs (usesUserBank true hat list)
        ((listRegs list).zip vals)) = .next t) := by
  unfold State.loadedBlock
  cases h15 : list.getLsbD 15 <;> cases hat <;> simp [eq_comm]

theorem loadBlock_eq_next {m : BlockMode} {c : Cond} {hat wb : Bool} {rn : RegNum} {list : BitVec 16} {s t : State}
    (h : loadBlock m c hat wb rn list s = .next t) :
    (condPassed s.cpsr c = false ∧ s.advanceFrom s = .next t) ∨
    (condPassed s.cpsr c = true ∧ s.blockRefusal true hat wb rn list = none ∧
      (s.abortedLoadBlock hat wb rn list (s.blockWb m rn list) = .next t ∨
       ∃ vals, s.loadedBlock hat wb rn list (s.blockWb m rn list) vals = .next t)) := by
  unfold loadBlock at h
  rw [State.whenPassed_eq_next, State.checkedBlock_eq_next] at h
  rcases h with ⟨hc, hr, -, -, h⟩ | h
  · refine .inr ⟨hc, hr, ?_⟩
    split at h
    · exact .inl h
    · exact .inr ⟨_, h⟩
  · exact .inl h

theorem storeBlock_eq_next {m : BlockMode} {c : Cond} {hat wb : Bool} {rn : RegNum} {list : BitVec 16} {s t : State}
    (h : storeBlock m c hat wb rn list s = .next t) :
    (condPassed s.cpsr c = false ∧ s.advanceFrom s = .next t) ∨
    (condPassed s.cpsr c = true ∧ s.blockRefusal false hat wb rn list = none ∧ ∃ stores,
      (((s.blockStored hat wb rn list stores).abortBase wb rn (s.blockWb m rn list)).dataAbort = .next t ∨
       s.advanceFrom ((s.blockStored hat wb rn list stores).writeBackIf wb rn (s.blockWb m rn list)) = .next t)) := by
  unfold storeBlock at h
  rw [State.whenPassed_eq_next, State.checkedBlock_eq_next] at h
  rcases h with ⟨hc, hr, -, -, h⟩ | h
  · refine .inr ⟨hc, hr, ?_⟩
    dsimp only at h
    split at h
    · exact ⟨_, .inl h⟩
    · exact ⟨_, .inr h⟩
  · exact .inl h

/-! ### Swap, status transfer, coprocessor -/

theorem swapAt_eq_next {size : AccessSize} {rd : RegNum} {addr : Word} {load : State → Word} {store : State → State}
    {s t : State} (h : swapAt size rd addr load store s = .next t) :
    s.outOfRange addr = false ∧
      (((s.setLock true).setLock false).dataAbort = .next t ∨
       s.advanceFrom (((store (s.setLock true)).setLock false).setX rd (load (s.setLock true))) = .next t) := by
  unfold swapAt at h
  cases hr : s.outOfRange addr with
  | true => simp [hr] at h
  | false =>
    simp only [hr] at h
    refine ⟨rfl, ?_⟩
    rw [if_neg (by simp)] at h
    split at h
    · exact .inl h
    · split at h
      · exact .inl h
      · exact .inr h

theorem State.writePsr_eq_next {s t : State} {spsr : Bool} {part : PsrPart} {v : Word}
    (h : s.writePsr spsr part v = .next t) :
    (spsr = true ∧ ∃ p, s.spsr = some p ∧ s.advanceFrom (s.setSpsrOf s.cpsr.mode.bank (p.writeFields part v)) = .next t) ∨
    (spsr = false ∧ ∃ q, s.cpsr.writeFields part v = some q ∧ (q.mode.is26 = true → above64M (s.pc + 4) = false) ∧
      s.advanceFrom (s.setCpsr q) = .next t) := by
  unfold State.writePsr at h
  cases spsr with
  | true =>
    cases hp : s.spsr with
    | none => simp [hp] at h
    | some p => exact .inl ⟨rfl, p, rfl, by simpa [hp] using h⟩
  | false =>
    cases hq : s.cpsr.writeFields part v with
    | none => simp [hq] at h
    | some q =>
      refine .inr ⟨rfl, q, rfl, ?_⟩
      simp only [hq] at h
      cases h26 : q.mode.is26 with
      | false => exact ⟨fun h' => (nomatch h'), by simpa [h26] using h⟩
      | true =>
        cases ha : above64M (s.pc + 4) with
        | false => exact ⟨fun _ => rfl, by simpa only [h26, ha, Bool.and_false, Bool.false_eq_true, if_false] using h⟩
        | true => simp only [h26, ha, Bool.and_self, if_true] at h; cases h

theorem State.withResponder_eq_next {s t : State} {p : RegNum} {w : Word} {body : Coproc → Result} :
    s.withResponder p w body = .next t ↔
      (s.responder p w = none ∧ t = s.takeException .undefinedInstruction (s.pc + 4)) ∨
      ∃ c, s.responder p w = some c ∧ body c = .next t := by
  unfold State.withResponder State.undefinedTrap
  cases s.responder p w <;> simp [eq_comm]

theorem State.reached_of_none {s : State} {addrs : List Word} {dir : AccessDir} {priv : Priv}
    (h : s.firstAbort addrs dir priv = none) : s.reached addrs dir priv = addrs := by simp [State.reached, h]

theorem State.reached_of_some {s : State} {addrs : List Word} {dir : AccessDir} {priv : Priv} {j : Nat}
    (h : s.firstAbort addrs dir priv = some j) : s.reached addrs dir priv = addrs.take (j + 1) := by simp [State.reached, h]

theorem State.checkedCoproc_eq_next {s t : State} {ix : Indexing} {up : Bool} {rn : RegNum} {o : BitVec 8} {n : Nat}
    {dir : AccessDir} {access : List Word → Result} :
    s.checkedCoproc ix up rn o n dir access = .next t ↔
      isAligned (s.coprocAddr ix up rn o) = true ∧ ¬ (rn = 15#4 ∧ writesBack ix = true) ∧
      (s.reached (wordAddrs (s.coprocAddr ix up rn o) n) dir s.priv).any s.outOfRange = false ∧
      access (wordAddrs (s.coprocAddr ix up rn o) n) = .next t := by
  unfold State.checkedCoproc
  cases hl : isAligned (s.coprocAddr ix up rn o) with
  | false => simp [hl]
  | true =>
    by_cases h : rn = 15#4 ∧ writesBack ix = true
    · obtain ⟨rfl, h⟩ := h; simp [hl, h]
    · cases hr : (s.reached (wordAddrs (s.coprocAddr ix up rn o) n) dir s.priv).any s.outOfRange <;> simp [hl, h, hr]

/-! ### The schedule of requests -/

@[simp] theorem Schedule.now_cons (i : Inputs) (l : List Inputs) (k : Option Nat) : (Schedule.mk (i :: l) k).now = i := rfl
@[simp] theorem Schedule.now_none : (Schedule.mk [] none).now = ⟨false, false, false⟩ := rfl
@[simp] theorem Schedule.now_some (n : Nat) : (Schedule.mk [] (some n)).now = Config.scheduled n := rfl
@[simp] theorem Schedule.rest_cons (i : Inputs) (l : List Inputs) (k : Option Nat) : (Schedule.mk (i :: l) k).rest = ⟨l, k⟩ := rfl
@[simp] theorem Schedule.rest_none : (Schedule.mk [] none).rest = ⟨[], none⟩ := rfl
@[simp] theorem Schedule.rest_some (n : Nat) : (Schedule.mk [] (some n)).rest = ⟨[], some (n + 1)⟩ := rfl

/-! ### The step and the run -/

/-- A next state of a step: an entry, or the decoded instruction executed. -/
theorem step_eq_next {s t : State} (h : step s = .next t) :
    t = s.inputsTaken.resetInput ∨
    (s.cpsr.f = false ∧ t = s.inputsTaken.takeException .fiq (s.pc + 4)) ∨
    (s.cpsr.i = false ∧ t = s.inputsTaken.takeException .irq (s.pc + 4)) ∨
    t = s.inputsTaken.takeException .prefetchAbort (s.pc + 4) ∨
    exec (decode s.variant (s.wordAt s.pc)) s.inputsTaken = .next t := by
  unfold step State.due at h
  cases hr : s.inputsNow.reset with
  | true => simp [hr] at h; exact .inl h.symm
  | false =>
    cases hf : (s.inputsNow.fiq && !s.cpsr.f) with
    | true =>
      simp only [Bool.and_eq_true, Bool.not_eq_true'] at hf
      simp [hr, hf] at h
      exact .inr (.inl ⟨hf.2, h.symm⟩)
    | false =>
      cases hi : (s.inputsNow.irq && !s.cpsr.i) with
      | true =>
        have hi' := hi
        simp only [Bool.and_eq_true, Bool.not_eq_true'] at hi'
        simp only [State.inputsTaken_cpsr, hr, hf, hi, Bool.false_eq_true, if_false, if_true, Host.Outcome.next.injEq] at h
        exact .inr (.inr (.inl ⟨hi'.2, h.symm⟩))
      | false =>
        right; right; right
        simp only [State.inputsTaken_cpsr, hr, hf, hi, Bool.false_eq_true, if_false] at h
        split at h
        · rename_i heq; split at heq
          · cases heq; cases h; exact .inl rfl
          · split at heq <;> cases heq
        · rename_i heq; split at heq
          · cases heq
          · split at heq
            · cases heq
            · cases heq; exact .inr h
        · cases h

theorem runUntil_of_end {e : State → Bool} {n : Nat} {s : State} (h : e s = true) : runUntil e n s = .ended s := by
  cases n <;> simp [runUntil, h]

theorem runUntil_succ_of_next {e : State → Bool} {n : Nat} {s t : State} (h : e s = false) (hs : step s = .next t) :
    runUntil e (n + 1) s = runUntil e n t := by simp [runUntil, h, hs]

end Sys2Proof.Machine
end

