-- ==== Sys2Proof/Laws/Registers.lean ====
section
/-! SUPPORT. Reading a register after writing one: the read gives the value written when the two names are the same physical
register and the old value otherwise (10_state.md R21 to R24). -/

namespace Sys2Proof.Machine

theorem PhysReg.index_inj {p q : PhysReg} (h : p.index = q.index) : p = q := by
  revert h; cases p <;> cases q <;> decide

/-- Reading a physical register after a write. -/
theorem State.phys_setPhys (s : State) (p q : PhysReg) (v : Word) :
    (s.setPhys p v).phys q = if p = q then v else s.phys q := by
  unfold State.phys
  rw [State.setPhys_regs]
  by_cases h : p = q
  · subst h; simp
  · rw [if_neg h]
    have hi : p.index ≠ q.index := fun e => h (PhysReg.index_inj e)
    have hv : (p.index : Nat) ≠ q.index := fun e => hi (Fin.ext e)
    simp [Vector.getElem_set_ne _ _ hv]

theorem physReg_isSome (b : Bank) (i : RegNum) (h : i ≠ 15#4) : (physReg b i).isSome := by
  cases b <;> (revert i; decide)

/-- Two registers of one bank are different physical registers (10_state.md R23). -/
theorem physReg_inj (b : Bank) (i j : RegNum) (hi : i ≠ 15#4) (h : physReg b i = physReg b j) : i = j := by
  cases b <;> (revert i j; decide)

/-- A write through a bank is a write of the physical register it names. -/
theorem State.setBankReg_eq_setPhys {s : State} {b : Bank} {i : RegNum} {p : PhysReg} (h : physReg b i = some p) (v : Word) :
    s.setBankReg b i v = s.setPhys p v := by
  simp [State.setBankReg, h]

theorem State.bankReg_eq_phys {s : State} {b : Bank} {i : RegNum} {p : PhysReg} (h : physReg b i = some p) :
    s.bankReg b i = s.phys p := by
  simp [State.bankReg, h]

theorem State.setBankReg_fifteen (s : State) (b : Bank) (v : Word) : s.setBankReg b 15#4 v = s := by
  cases b <;> rfl

/-- Reading a physical register after a write through a bank. -/
theorem State.phys_setBankReg (s : State) (b : Bank) (i : RegNum) (v : Word) (q : PhysReg) :
    (s.setBankReg b i v).phys q = if physReg b i = some q then v else s.phys q := by
  unfold State.setBankReg
  cases h : physReg b i with
  | none => simp
  | some p => simp [State.phys_setPhys]

/-- Reading a register of a bank after writing one of the same bank. -/
theorem State.bankReg_setBankReg (s : State) (b : Bank) (i j : RegNum) (v : Word) (hi : i ≠ 15#4) :
    (s.setBankReg b i v).bankReg b j = if i = j then v else s.bankReg b j := by
  obtain ⟨p, hp⟩ := Option.isSome_iff_exists.mp (physReg_isSome b i hi)
  rw [State.setBankReg_eq_setPhys hp]
  unfold State.bankReg
  cases hj : physReg b j with
  | none =>
    have : i ≠ j := by rintro rfl; simp [hp] at hj
    simp [this]
  | some q =>
    simp only [State.phys_setPhys]
    by_cases hij : i = j
    · subst hij
      have : p = q := by simpa [hp] using hj
      simp [this]
    · have : p ≠ q := by
        rintro rfl
        exact hij (physReg_inj b i j hi (hp.trans hj.symm))
      simp [hij, this]

/-- `x[j]` after `x[i] <- v` (10_state.md R23). -/
theorem State.x_setX (s : State) (i j : RegNum) (v : Word) (hi : i ≠ 15#4) : (s.setX i v).x j = if i = j then v else s.x j := by
  unfold State.x
  rw [State.setX_cpsr]
  exact State.bankReg_setBankReg s _ i j v hi

/-- `xu[j]` after `xu[i] <- v` (10_state.md R24). -/
theorem State.xu_setXu (s : State) (i j : RegNum) (v : Word) (hi : i ≠ 15#4) :
    (s.setXu i v).xu j = if i = j then v else s.xu j :=
  State.bankReg_setBankReg s _ i j v hi

/-- A read of a register depends on the registers and the pc alone. -/
theorem State.bankReg_congr {s t : State} (hr : t.regs = s.regs) (hp : t.pc = s.pc) (b : Bank) (i : RegNum) :
    t.bankReg b i = s.bankReg b i := by
  unfold State.bankReg State.phys
  rw [hr, hp]

/-- A read of a register other than 15 depends on the registers alone. -/
theorem State.bankReg_congr_of_ne {s t : State} (hr : t.regs = s.regs) (b : Bank) (i : RegNum) (hi : i ≠ 15#4) :
    t.bankReg b i = s.bankReg b i := by
  obtain ⟨p, hp⟩ := Option.isSome_iff_exists.mp (physReg_isSome b i hi)
  rw [State.bankReg_eq_phys hp, State.bankReg_eq_phys hp]
  unfold State.phys
  rw [hr]

/-- Reading a physical register depends on the registers alone. -/
theorem State.phys_congr {s t : State} (hr : t.regs = s.regs) (q : PhysReg) : t.phys q = s.phys q := by
  unfold State.phys
  rw [hr]

/-- The SPSR of a bank after a write. -/
theorem State.spsrOf_setSpsrOf (s : State) (b b' : Bank) (p : Psr) (hb : b ≠ .usr) :
    (s.setSpsrOf b p).spsrOf b' = if b = b' then some p else s.spsrOf b' := by
  cases b <;> cases b' <;> first | rfl | (exact absurd rfl hb)

end Sys2Proof.Machine
end

