-- ==== Sys2Proof/Tests/Slice0.lean ====
section
/-! SUPPORT. Tests: ill-formed terms that `WellFormed` refuses; words written out from the bitmaps of 30_encoding.md R102 to R116 and
what they decode to; single steps with the results that 95_test_vectors.md and the rules give; and, for each statement with hypotheses,
a state and operands that meet them. -/

open Sys2Proof Sys2Proof.Machine

namespace Sys2Proof.Tests

/-! ### Small states -/

/-- A processor in a mode, with its flags, some registers of that mode and some words of memory, at 0x8000 with I = F = 0. -/
def rig (v : Variant) (m : Mode) (nzcv : BitVec 4) (regs : List (RegNum × Word)) (mem : List (Word × Word)) (w : Word) : State :=
  let s : State := { State.resetOn v [] (Vector.replicate 16 none) ⟨[], none⟩ with
    pc := 0x8000#32
    cpsr := ⟨nzcv.getLsbD 3, nzcv.getLsbD 2, nzcv.getLsbD 1, nzcv.getLsbD 0, false, false, m⟩ }
  { (regs.foldl (fun t r => t.setX r.1 r.2) s) with
    mem := (mem ++ [(0x8000#32, w)]).foldl (fun m c => writeMemWord m c.1 c.2) [] }

/-- The flags NZCV. -/
def flags (s : State) : BitVec 4 :=
  BitVec.ofBool s.cpsr.n ++ BitVec.ofBool s.cpsr.z ++ BitVec.ofBool s.cpsr.c ++ BitVec.ofBool s.cpsr.v

/-- What a step leaves, seen through `f`; none when it stops. -/
def after {α : Type} (s : State) (f : State → α) : Option α :=
  match step s with
  | .next t => some (f t)
  | .fault _ | .refused _ => none

/-- Why a step is refused. -/
def refusal (s : State) : Option Refusal :=
  match step s with
  | .refused r => some r
  | .fault _ | .next _ => none

/-- An ARM7DM in a mode, at 0x8000, with everything else as after reset. -/
def demo (m : Mode) : State := rig .arm7dm m 0 [] [] 0

/-- The same with a coprocessor 1 that accepts every word. -/
def demoCoproc : State := { demo .svc32 with coprocs := (Vector.replicate 16 none).set 1 (some ⟨[⟨0#32, 0#32⟩], []⟩) }

/-- The same on an ARM 3 in SVC mode with R1 = `base`, and a privileged word access of one direction aborted at 0x03FFFFFC to 0x03FFFFFF. -/
def demoCoprocAt (base : Word) (dir : AccessDir) : State := { rig .arm3 .svc26 0 [(1, base)] [] 0 with
  coprocs := (Vector.replicate 16 none).set 1 (some ⟨[⟨0#32, 0#32⟩], []⟩)
  memMap := [⟨0x03FFFFFC, 0x03FFFFFF, .word, dir, .privileged⟩] }

/-- A state at the top of the range of its pc. -/
def atTop (s : State) : State := { s with pc := s.pcTop }

/-- The same with one access aborted: a privileged one of this size and direction at 0x9004 to 0x9007. -/
def demoAbort (size : AccessSize) (dir : AccessDir) : State :=
  { rig .arm7dm .svc32 0 [(0, 0x9000), (1, 0x9004)] [] 0 with memMap := [⟨0x9004, 0x9007, size, dir, .privileged⟩] }

/-! ### Ill-formed terms -/

/-- A comparison whose dddd field is 1111 is its P form. -/
theorem test_wf_compare : WellFormed .arm7dm (.tst .al 15 0 (.imm 0 0)) = false ∧ WellFormed .arm7dm (.teq .al 15 0 (.imm 0 0)) = false ∧
    WellFormed .arm7dm (.cmp .al 15 0 (.imm 0 0)) = false ∧ WellFormed .arm7dm (.cmn .al 15 0 (.imm 0 0)) = false := by decide

/-- The long multiplies exist on ARM7DM only. -/
theorem test_wf_long_multiply : WellFormed .arm6 (.umull .al false 1 0 3 2) = false ∧ WellFormed .arm6 (.umlal .al false 1 0 3 2) = false ∧
    WellFormed .arm6 (.smull .al false 1 0 3 2) = false ∧ WellFormed .arm6 (.smlal .al false 1 0 3 2) = false := by decide

/-- ARM 2 has no swaps. -/
theorem test_wf_swap : WellFormed .arm2 (.swp .al 2 0 1) = false ∧ WellFormed .arm2 (.swpb .al 2 0 1) = false := by decide

/-- The processors before ARM 6 have no status register transfers. -/
theorem test_wf_status : WellFormed .arm3 (.mrs .al false 0) = false ∧ WellFormed .arm3 (.msrReg .al false .all 1) = false ∧
    WellFormed .arm3 (.msrImm .al false .flg 2 15) = false := by decide

/-- A word that is an instruction is neither undefined nor unallocated. -/
theorem test_wf_words : WellFormed .arm7dm (.undefined 0xE1A00000) = false ∧ WellFormed .arm7dm (.unallocated 0xE1A00000) = false ∧
    WellFormed .arm3 (.undefined 0xE1000090) = false ∧ WellFormed .arm2 (.unallocated 0xE1000090) = false := by decide

/-! ### Decoding: every constructor from a word written out from its bitmap -/

/-- R102 and R103: the instructions with a destination. -/
theorem test_decode_data_processing :
    decode .arm7dm 0b0000_00_0_0000_0_0001_0000_00000_00_0_0010#32 = .and .eq false 0 1 (.shiftImm 2 .lsl 0) ∧
    decode .arm7dm 0b1110_00_1_0001_1_0001_0000_0001_00000010#32 = .eor .al true 0 1 (.imm 1 2) ∧
    decode .arm7dm 0b1110_00_0_0010_1_0001_0000_00000_00_0_0010#32 = .sub .al true 0 1 (.shiftImm 2 .lsl 0) ∧
    decode .arm7dm 0b1110_00_1_0011_1_0001_0000_0000_00000000#32 = .rsb .al true 0 1 (.imm 0 0) ∧
    decode .arm7dm 0b0000_00_0_0100_1_0001_0000_0011_0_00_1_0010#32 = .add .eq true 0 1 (.shiftReg 2 .lsl 3) ∧
    decode .arm7dm 0b1110_00_0_0101_0_0001_0000_00000_00_0_0001#32 = .adc .al false 0 1 (.shiftImm 1 .lsl 0) ∧
    decode .arm7dm 0b1110_00_0_0110_1_0001_0000_00000_01_0_0010#32 = .sbc .al true 0 1 (.shiftImm 2 .lsr 0) ∧
    decode .arm7dm 0b1110_00_0_0111_1_0001_0000_00001_10_0_0010#32 = .rsc .al true 0 1 (.shiftImm 2 .asr 1) ∧
    decode .arm7dm 0b1110_00_0_1100_1_0001_0000_00000_11_0_0010#32 = .orr .al true 0 1 (.shiftImm 2 .ror 0) ∧
    decode .arm7dm 0b1110_00_0_1101_1_0000_1111_00000_00_0_1110#32 = .mov .al true 15 0 (.shiftImm 14 .lsl 0) ∧
    decode .arm7dm 0b1110_00_1_1110_0_1110_1100_0011_11111111#32 = .bic .al false 12 14 (.imm 3 255) ∧
    decode .arm7dm 0b1110_00_0_1111_1_0000_0000_0010_0_10_1_0001#32 = .mvn .al true 0 0 (.shiftReg 1 .asr 2) := by decide

/-- R102 and R103 with S = 1: the comparisons, and their P forms where dddd = 1111. -/
theorem test_decode_comparisons :
    decode .arm7dm 0b1110_00_0_1000_1_0001_0000_00001_00_0_0010#32 = .tst .al 0 1 (.shiftImm 2 .lsl 1) ∧
    decode .arm7dm 0b1110_00_1_1000_1_0001_1111_0010_00001111#32 = .tstp .al 1 (.imm 2 15) ∧
    decode .arm7dm 0b1110_00_1_1001_1_0001_0000_0000_00000001#32 = .teq .al 0 1 (.imm 0 1) ∧
    decode .arm7dm 0b1110_00_1_1001_1_1111_1111_0000_00000011#32 = .teqp .al 15 (.imm 0 3) ∧
    decode .arm7dm 0b1110_00_0_1010_1_0001_0001_00000_00_0_0010#32 = .cmp .al 1 1 (.shiftImm 2 .lsl 0) ∧
    decode .arm7dm 0b1110_00_1_1010_1_0001_1111_0000_00000000#32 = .cmpp .al 1 (.imm 0 0) ∧
    decode .arm7dm 0b1110_00_0_1011_1_0001_0000_00000_00_0_0010#32 = .cmn .al 0 1 (.shiftImm 2 .lsl 0) ∧
    decode .arm7dm 0b1110_00_1_1011_1_0001_1111_0000_00000001#32 = .cmnp .al 1 (.imm 0 1) := by decide

/-- R104, R105, R106, R109 and R113: branches, multiplies, SWI and swaps. -/
theorem test_decode_branch_multiply_swap :
    decode .arm7dm 0b1110_101_0_111111111111111111111110#32 = .b .al 0xFFFFFE ∧
    decode .arm7dm 0b0001_101_1_000000000000001111111110#32 = .bl .ne 0x0003FE ∧
    decode .arm7dm 0b1110_000000_0_0_0000_0000_0010_1001_0001#32 = .mul .al false 0 0 2 1 ∧
    decode .arm7dm 0b1110_000000_1_1_0000_0011_0010_1001_0001#32 = .mla .al true 0 3 2 1 ∧
    decode .arm7dm 0b1110_00001_0_0_0_0001_0000_0011_1001_0010#32 = .umull .al false 1 0 3 2 ∧
    decode .arm7dm 0b1110_00001_0_1_1_0001_0000_0011_1001_0010#32 = .umlal .al true 1 0 3 2 ∧
    decode .arm7dm 0b1110_00001_1_0_0_0001_0000_0011_1001_0010#32 = .smull .al false 1 0 3 2 ∧
    decode .arm7dm 0b1110_00001_1_1_0_0001_0000_0011_1001_0010#32 = .smlal .al false 1 0 3 2 ∧
    decode .arm7dm 0b0001_1111_000001000000000011000000#32 = .swi .ne 0x0400C0 ∧
    decode .arm7dm 0b1110_00010_0_00_0010_0000_0000_1001_0001#32 = .swp .al 2 0 1 ∧
    decode .arm7dm 0b1110_00010_1_00_0010_0000_0000_1001_0001#32 = .swpb .al 2 0 1 := by decide

/-- R107: single data transfers, P U B W L. -/
theorem test_decode_single_transfer :
    decode .arm7dm 0b1110_01_1_1_1_0_1_1_0001_0000_00001_00_0_0010#32 = .ldr .al .preWriteBack true 1 0 (.shifted 2 .lsl 1) ∧
    decode .arm7dm 0b1110_01_0_1_1_1_0_1_0001_0000_000000000011#32 = .ldrb .al .pre true 1 0 (.imm 3) ∧
    decode .arm7dm 0b1110_01_0_0_1_0_0_0_0001_0000_000000000010#32 = .str .al .post true 1 0 (.imm 2) ∧
    decode .arm7dm 0b1110_01_0_1_0_1_1_0_0001_0000_000000000001#32 = .strb .al .preWriteBack false 1 0 (.imm 1) ∧
    decode .arm7dm 0b1110_01_0_0_1_0_1_1_0001_0000_000000000000#32 = .ldrt .al true 1 0 (.imm 0) ∧
    decode .arm7dm 0b1110_01_0_0_1_1_1_1_0001_0000_000000000100#32 = .ldrbt .al true 1 0 (.imm 4) ∧
    decode .arm7dm 0b1110_01_1_0_0_0_1_0_0001_0000_00000_01_0_0010#32 = .strt .al false 1 0 (.shifted 2 .lsr 0) ∧
    decode .arm7dm 0b1110_01_0_0_1_1_1_0_0001_0000_000000000001#32 = .strbt .al true 1 0 (.imm 1) := by decide

/-- R108: block data transfers, P U S W L. -/
theorem test_decode_block_transfer :
    decode .arm7dm 0b1110_100_0_1_0_1_1_1101_0001000100011111#32 = .ldmia .al false true 13 0x111F ∧
    decode .arm7dm 0b1110_100_1_1_0_1_1_0000_0000000000001110#32 = .ldmib .al false true 0 0x000E ∧
    decode .arm7dm 0b1110_100_0_0_0_1_1_0000_0000000000001110#32 = .ldmda .al false true 0 0x000E ∧
    decode .arm7dm 0b1110_100_1_0_0_0_1_0000_0000000000000010#32 = .ldmdb .al false false 0 0x0002 ∧
    decode .arm7dm 0b0000_100_0_1_0_0_0_0101_0000000000001111#32 = .stmia .eq false false 5 0x000F ∧
    decode .arm7dm 0b1110_100_1_1_1_0_0_0101_0000000000001111#32 = .stmib .al true false 5 0x000F ∧
    decode .arm7dm 0b1110_100_0_0_0_1_0_0000_0000000000001110#32 = .stmda .al false true 0 0x000E ∧
    decode .arm7dm 0b1110_100_1_0_0_1_0_1101_0000000000011110#32 = .stmdb .al false true 13 0x001E := by decide

/-- R110, R111 and R112: coprocessor instructions. -/
theorem test_decode_coprocessor :
    decode .arm7dm 0b1110_1110_0001_1001_0000_0001_011_0_1111#32 = .cdp .al 1 9 0 1 3 15 ∧
    decode .arm7dm 0b0001_110_0_0_1_1_1_0001_0000_0001_00011001#32 = .ldc .ne .post false true 1 0 1 25 ∧
    decode .arm7dm 0b1110_110_1_0_1_1_0_0001_0000_0001_00001000#32 = .stc .al .preWriteBack false true 1 0 1 8 ∧
    decode .arm7dm 0b1110_1110_000_0_0001_0000_1111_000_1_0000#32 = .mcr .al 0 1 0 15 0 0 ∧
    decode .arm7dm 0b1110_1110_000_1_0000_1111_0001_000_1_0000#32 = .mrc .al 0 0 15 1 0 0 := by decide

/-- R114, R116 and R118: status transfers, undefined and unallocated words. -/
theorem test_decode_status_undefined :
    decode .arm7dm 0b1110_00010_1_001111_0000_000000000000#32 = .mrs .al true 0 ∧
    decode .arm7dm 0b0001_00010_0_10_0001_1111_00000000_0001#32 = .msrReg .ne false .ctl 1 ∧
    decode .arm7dm 0b1110_00110_0_10_1000_1111_0010_00001111#32 = .msrImm .al false .flg 2 15 ∧
    decode .arm7dm 0b1110_011_00000000000000000000_1_0000#32 = .undefined 0xE6000010 ∧
    decode .arm2 0b1110_0001_0000_0000_0000_0000_1001_0000#32 = .undefined 0xE1000090 ∧
    decode .arm7dm 0b1110_0001_0000_0000_0000_0000_1001_0000#32 = .swp .al 0 0 0 ∧
    decode .arm7dm 0b1110_0000_0100_0000_0000_0000_1001_0000#32 = .unallocated 0xE0400090 ∧
    decode .arm7dm 0b1110_00110_0_10_1111_1111_0000_00000000#32 = .unallocated 0xE32FF000 := by decide

/-- The words of Part 1 of 95_test_vectors.md as the host writes them. -/
theorem test_decode_table_word :
    decodeTableWord 32 0xE0910002 = some (.add .al true 0 1 (.shiftImm 2 .lsl 0)) ∧ decodeTableWord 16 0 = none := by decide

/-! ### Data processing (tables DP1 to DP6) -/

theorem test_and : after (rig .arm7dm .svc32 0b0011 [(1, 0xF0F0F0F0), (2, 0x0FF00FF0)] [] 0xE0110002) (fun t => (t.x 0, flags t)) =
    some (0x00F000F0, 0b0011) := by decide
theorem test_eor : after (rig .arm7dm .svc32 0 [] [] 0xE2310102) (fun t => (t.x 0, flags t)) = some (0x80000000, 0b1010) := by decide
theorem test_sub : after (rig .arm7dm .svc32 0 [(1, 0x7FFFFFFF), (2, 0xFFFFFFFF)] [] 0xE0510002) (fun t => (t.x 0, flags t)) =
    some (0x80000000, 0b1001) := by decide
theorem test_sub_return : after (rig .arm3 .svc26 0b1000 [(14, 0x6C009123)] [] 0xE25EF004)
    (fun t => (t.pc, flags t, t.cpsr.i, t.cpsr.f, t.cpsr.mode)) = some (0x911C, 0b0110, true, true, .svc26) := by decide
theorem test_rsb : after (rig .arm7dm .svc32 0 [(1, 3), (2, 10)] [] 0xE0710002) (fun t => (t.x 0, flags t)) = some (7, 0b0010) := by decide
theorem test_add : after (rig .arm7dm .svc32 0b0100 [(1, 1), (2, 3), (3, 4)] [] 0x00910312) (fun t => (t.x 0, flags t)) =
    some (0x31, 0) := by decide
theorem test_add_pc : after (rig .arm3 .usr26 0b1010 [] [] 0xE08F000F) (fun t => (t.x 0, t.pc)) = some (0xA0010010, 0x8004) := by decide
theorem test_adc : after (rig .arm7dm .svc32 0b0010 [(1, 0x7FFFFFFF)] [] 0xE0B10002) (fun t => (t.x 0, flags t)) =
    some (0x80000000, 0b1001) := by decide
theorem test_sbc : after (rig .arm7dm .svc32 0 [(1, 0), (2, 0xFFFFFFFF)] [] 0xE0D10002) (fun t => (t.x 0, flags t)) =
    some (0, 0b0100) := by decide
theorem test_rsc : after (rig .arm7dm .svc32 0 [(1, 3), (2, 5)] [] 0xE0F10002) (fun t => (t.x 0, flags t)) = some (1, 0b0010) := by decide
theorem test_tst : after (rig .arm7dm .svc32 0b0001 [(1, 0xFF), (2, 0x80000001)] [] 0xE1110082) flags = some 0b0011 := by decide
theorem test_tstp : after (rig .arm6 .svc26 0b1010 [(1, 0x5C000002)] [] 0xE311F20F) (fun t => (flags t, t.cpsr.mode)) =
    some (0b0101, .usr26) := by decide
theorem test_teq : after (rig .arm7dm .svc32 0b0110 [(1, 0x80000000)] [] 0xE1310002) flags = some 0b1010 := by decide
theorem test_teqp : after (rig .arm3 .irq26 0b1010 [] [] 0xE33FF343) (fun t => (flags t, t.cpsr.i, t.cpsr.f, t.cpsr.mode)) =
    some (0, true, true, .fiq26) := by decide
theorem test_cmp : after (rig .arm7dm .svc32 0 [(1, 0xFFFFFFFF), (2, 1)] [] 0xE1510002) flags = some 0b1010 := by decide
theorem test_cmpp : after (rig .arm3 .usr26 0b1010 [(1, 0x90000003)] [] 0xE351F000) (fun t => (flags t, t.cpsr.mode)) =
    some (0b1001, .usr26) := by decide
theorem test_cmn : after (rig .arm7dm .svc32 0 [(1, 0x80000000), (2, 0x80000000)] [] 0xE1710002) flags = some 0b0111 := by decide
theorem test_cmnp : refusal (rig .arm7dm .svc32 0 [] [] 0xE371F001) = some .pFormIn32bit ∧
    after (rig .arm3 .irq26 0 [(1, 0x6FFFFFFF)] [] 0xE371F001) flags = some 0b0111 := by decide
theorem test_orr : after (rig .arm7dm .svc32 0b0111 [(1, 0x80000000), (2, 1)] [] 0xE1910002) (fun t => (t.x 0, flags t)) =
    some (0x80000001, 0b1011) := by decide
theorem test_mov_rrx : after (rig .arm7dm .svc32 0b0010 [(1, 2)] [] 0xE1B00061) (fun t => (t.x 0, flags t)) =
    some (0x80000001, 0b1000) := by decide
theorem test_mov_asr_by_register : after (rig .arm7dm .svc32 0b0010 [(1, 0x40000001), (2, 0x28)] [] 0xE1B00251)
    (fun t => (t.x 0, flags t)) = some (0, 0b0100) := by decide
theorem test_bic : after (rig .arm7dm .svc32 0b0011 [(1, 0xFFFFFFFF), (2, 0x7FFFFFFF)] [] 0xE1D10002) (fun t => (t.x 0, flags t)) =
    some (0x80000000, 0b1011) := by decide
theorem test_mvn : after (rig .arm7dm .svc32 0b0010 [] [] 0xE3F000FF) (fun t => (t.x 0, flags t)) = some (0xFFFFFF00, 0b1010) := by decide

/-! ### Branches and multiplies (tables BR1, MU1, MU2) -/

theorem test_b : after (rig .arm2 .usr26 0b0100 [] [] 0x1AFFFFFC) State.pc = some 0x8004 ∧
    after (rig .arm2 .usr26 0 [] [] 0x1AFFFFFC) State.pc = some 0x7FF8 := by decide
theorem test_bl : after (rig .arm6 .svc26 0b1010 [] [] 0xEB0003FE) (fun t => (t.pc, t.x 14)) = some (0x9000, 0xA0008007) := by decide
theorem test_mul : after (rig .arm7dm .svc32 0b0001 [(1, 0xFFFFFFFF), (2, 1)] [] 0xE0100291)
    (fun t => (t.x 0, t.cpsr.n, t.cpsr.z, t.cpsr.v)) = some (0xFFFFFFFF, true, false, true) := by decide
theorem test_mla : after (rig .arm7dm .svc32 0 [(0, 7), (1, 3), (2, 5)] [] 0xE0200291) (fun t => t.x 0) = some 0x16 := by decide
theorem test_umull : after (rig .arm7dm .svc32 0 [(2, 0x12345678), (3, 0x9ABCDEF0)] [] 0xE0810392) (fun t => (t.x 1, t.x 0)) =
    some (0x0B00EA4E, 0x242D2080) := by decide
theorem test_umlal : after (rig .arm7dm .svc32 0 [(2, 1), (3, 1), (0, 0xFFFFFFFF)] [] 0xE0A10392) (fun t => (t.x 1, t.x 0)) =
    some (1, 0) := by decide
theorem test_smull : after (rig .arm7dm .svc32 0 [(2, 0xFFFFFFFF), (3, 1)] [] 0xE0D10392)
    (fun t => (t.x 1, t.x 0, t.cpsr.n, t.cpsr.z)) = some (0xFFFFFFFF, 0xFFFFFFFF, true, false) := by decide
theorem test_smlal : after (rig .arm7dm .svc32 0 [(2, 0x80000000), (3, 2), (0, 0xFFFFFFFF), (1, 0xFFFFFFFF)] [] 0xE0E10392)
    (fun t => (t.x 1, t.x 0)) = some (0xFFFFFFFE, 0xFFFFFFFF) := by decide

/-! ### Transfers (tables SD1, BD1, SP1) -/

theorem test_ldr : after (rig .arm7dm .svc32 0 [(1, 0x9000), (2, 4)] [(0x9008, 0x99AABBCC)] 0xE7B10082) (fun t => (t.x 0, t.x 1)) =
    some (0x99AABBCC, 0x9008) := by decide
theorem test_ldr_pc : after (rig .arm3 .svc26 0 [(1, 0x9008)] [(0x9008, 0x99AABBCC)] 0xE591F000) (fun t => (t.pc, flags t)) =
    some (0x01AABBCC, 0) := by decide
theorem test_ldrb : after (rig .arm7dm .svc32 0 [(1, 0x9000)] [(0x8FFC, 0xDEADBEEF)] 0xE5710001) (fun t => (t.x 0, t.x 1)) =
    some (0xDE, 0x8FFF) := by decide
theorem test_str : after (rig .arm7dm .svc32 0 [(0, 0xCAFEBABE), (1, 0x9000)] [] 0xE4810002) (fun t => (t.wordAt 0x9000, t.x 1)) =
    some (0xCAFEBABE, 0x9002) := by decide
theorem test_strb : after (rig .arm7dm .svc32 0 [(0, 0xCAFEBABE), (1, 0x9003)] [(0x9000, 0x11223344)] 0xE4C10001)
    (fun t => (t.wordAt 0x9000, t.x 1)) = some (0xBE223344, 0x9004) := by decide
theorem test_ldrt : after (rig .arm7dm .svc32 0 [(1, 0x9000)] [(0x9000, 0x11223344)] 0xE4B10000) (fun t => (t.x 0, t.x 1)) =
    some (0x11223344, 0x9000) := by decide
theorem test_ldrbt : after (rig .arm7dm .svc32 0 [(1, 0x9000)] [(0x9000, 0x11223344)] 0xE4F10004) (fun t => (t.x 0, t.x 1)) =
    some (0x44, 0x9004) := by decide

theorem test_strt : after (rig .arm7dm .svc32 0 [(0, 1), (1, 0x9000)] [(0x9000, 0x11223344)] 0xE4A10000)
    (fun t => (t.wordAt 0x9000, t.x 1)) = some (1, 0x9000) := by decide
theorem test_strbt : after (rig .arm7dm .svc32 0 [(0, 0xFF), (1, 0x9000)] [(0x9000, 0x11223344)] 0xE4E10000)
    (fun t => t.wordAt 0x9000) = some 0x112233FF := by decide
theorem test_ldmia : after (rig .arm3 .usr26 0 [(13, 0x9000)] [(0x9000, 5), (0x9004, 0x6C009123)] 0xE8FD8001)
    (fun t => (t.x 0, t.x 13, t.pc, flags t, t.cpsr.i, t.cpsr.mode)) = some (5, 0x9008, 0x9120, 0b0110, false, .usr26) := by decide
theorem test_ldmib : after (rig .arm7dm .svc32 0 [(0, 0x9000)] [(0x9004, 0xE1), (0x9008, 0xE2), (0x900C, 0xE3)] 0xE9B0000E)
    (fun t => (t.x 1, t.x 2, t.x 3, t.x 0)) = some (0xE1, 0xE2, 0xE3, 0x900C) := by decide
theorem test_ldmda : after (rig .arm7dm .svc32 0 [(0, 0x9000)] [(0x8FF8, 0xD2), (0x8FFC, 0xD1), (0x9000, 0xE0)] 0xE830000E)
    (fun t => (t.x 1, t.x 2, t.x 3, t.x 0)) = some (0xD2, 0xD1, 0xE0, 0x8FF4) := by decide
theorem test_ldmdb : after (rig .arm7dm .svc32 0 [(0, 0x9000)] [(0x8FF4, 0xD3), (0x8FF8, 0xD2), (0x8FFC, 0xD1)] 0xE930000E)
    (fun t => (t.x 1, t.x 2, t.x 3, t.x 0)) = some (0xD3, 0xD2, 0xD1, 0x8FF4) := by decide
theorem test_stmia : after (rig .arm7dm .svc32 0 [(0, 0x9000), (1, 7)] [] 0xE8A00003)
    (fun t => (t.wordAt 0x9000, t.wordAt 0x9004, t.x 0)) = some (0x9000, 7, 0x9008) := by decide
theorem test_stmib : after ((rig .arm7dm .svc32 0 [(0, 0x9000), (13, 0x7777)] [] 0xE9C02000).setXu 13 0x5555)
    (fun t => t.wordAt 0x9004) = some 0x5555 := by decide
theorem test_stmda : after (rig .arm7dm .svc32 0 [(0, 0x9000), (1, 0x11), (2, 0x22), (3, 0x33)] [] 0xE820000E)
    (fun t => (t.wordAt 0x8FF8, t.wordAt 0x8FFC, t.wordAt 0x9000, t.x 0)) = some (0x11, 0x22, 0x33, 0x8FF4) := by decide
theorem test_stmdb : after (rig .arm3 .svc26 0b0110 [(0, 1), (13, 0x9000), (14, 0x1234)] [] 0xE92DC001)
    (fun t => (t.wordAt 0x8FF4, t.wordAt 0x8FF8, t.wordAt 0x8FFC, t.x 13)) = some (1, 0x1234, 0x6000800F, 0x8FF4) := by decide
theorem test_swp : after (rig .arm3 .svc26 0 [(1, 0xCAFEBABE), (0, 0x9000)] [(0x9000, 0x11223344)] 0xE1000091)
    (fun t => (t.x 0, t.wordAt 0x9000)) = some (0x11223344, 0xCAFEBABE) := by decide
theorem test_swpb : after (rig .arm6 .svc32 0 [(1, 0xCAFEBABE), (2, 0x9003)] [(0x9000, 0x11223344)] 0xE1420091)
    (fun t => (t.x 0, t.wordAt 0x9000)) = some (0x11, 0xBE223344) := by decide

/-! ### Exceptions, coprocessors, status transfers (tables SW1, CP1, PS1, UD1; 60_exceptions.md R395) -/

theorem test_swi_arm2 : after (rig .arm2 .usr26 0b1010 [] [] 0xEF123456) (fun t => (t.pc, t.cpsr.mode, t.cpsr.i, t.x 14)) =
    some (8, .svc26, true, 0xA0008004) := by decide
theorem test_swi_arm6 : after (rig .arm6 .usr26 0b1010 [] [] 0xEF123456) (fun t => (t.pc, t.cpsr.mode, t.x 14, t.spsr)) =
    some (8, .svc32, 0x8004, some (Psr.ofWord 0xA0000000)) := by decide
theorem test_undefined_arm6 : after (rig .arm6 .usr32 0b1010 [] [] 0xE6000010) (fun t => (t.pc, t.cpsr.mode, t.x 14, t.spsr)) =
    some (4, .und32, 0x8004, some (Psr.ofWord 0xA0000010)) := by decide
theorem test_undefined_arm2 : after (rig .arm2 .usr26 0b1010 [] [] 0xE1012093) (fun t => (t.pc, t.cpsr.mode, t.x 14)) =
    some (4, .svc26, 0xA0008004) := by decide
theorem test_unallocated : refusal (rig .arm7dm .svc32 0 [] [] 0x10400090) = some .unallocatedEncoding := by decide
theorem test_cdp_absent : after (rig .arm2 .usr26 0b1010 [] [] 0xEE19016F) (fun t => (t.pc, t.x 14)) = some (4, 0xA0008004) := by decide
theorem test_cdp : after { rig .arm7dm .svc32 0 [] [] 0xEE19016F with coprocs := demoCoproc.coprocs } (fun t => (t.pc, t.cpsr.mode)) =
    some (0x8004, .svc32) := by decide
theorem test_ldc_post : after { rig .arm7dm .svc32 0b0100 [(1, 0x9000)] [] 0x1C710119 with coprocs := demoCoproc.coprocs }
    (fun t => (t.pc, t.x 1)) = some (0x8004, 0x9000) := by decide
theorem test_stc_absent : after (rig .arm7dm .svc32 0 [(1, 0x9020)] [] 0xED610108) (fun t => (t.pc, t.x 1)) = some (4, 0x9020) := by decide
theorem test_mcr : refusal (rig .arm7dm .svc32 0 [] [] 0xEE01FF10) = some .mcrR15 := by decide
theorem test_mrc : after { rig .arm7dm .svc32 0b1000 [] [] 0xEE10F110 with coprocs := demoCoproc.coprocs }
    (fun t => (t.pc, t.cpsr.mode, t.cpsr.i)) = some (0x8004, .svc32, false) := by decide
/-- The word of a status with its reserved bits shown as 0 (49_status_transfer_and_undefined.md R333). -/
theorem test_mrs : Psr.toWord ⟨true, false, true, false, true, false, 0b10011⟩ 0 = 0xA0000093 ∧
    after (rig .arm7dm .svc26 0b1010 [] [] 0xE10F0000) (fun t => (t.pc, flags t)) = some (0x8004, 0b1010) := by decide
theorem test_msr_reg : after (rig .arm7dm .svc32 0 [(1, 0x40000092)] [] 0xE129F001)
    (fun t => (flags t, t.cpsr.i, t.cpsr.f, t.cpsr.mode, t.pc)) = some (0b0100, true, false, .irq32, 0x8004) := by decide
theorem test_msr_reg_user : after (rig .arm7dm .usr32 0b1010 [(1, 0x500000D3)] [] 0xE121F001) (fun t => (flags t, t.cpsr.i, t.cpsr.mode)) =
    some (0b1010, false, .usr32) := by decide
theorem test_msr_imm : after (rig .arm7dm .usr32 0 [] [] 0xE328F20F) flags = some 0b1111 := by decide

/-- A data abort (60_exceptions.md R395). -/
theorem test_data_abort : after { rig .arm2 .usr26 0b0110 [(0, 7), (1, 0x9000)] [] 0xE5910000 with
      memMap := [⟨0x9000, 0x9003, .word, .read, .user⟩] }
    (fun t => (t.pc, t.x 0, t.cpsr.mode, t.x 14)) = some (0x10, 7, .svc26, 0x60008008) := by decide
/-- An interrupt comes before the instruction; FIQ comes before IRQ (95_test_vectors.md EX1). -/
theorem test_fiq_before_irq : after { rig .arm3 .usr26 0b0110 [] [] 0xE1A00000 with inputs := ⟨[⟨false, true, true⟩], none⟩ }
    (fun t => (t.pc, t.cpsr.mode, t.cpsr.i, t.cpsr.f, t.x 14)) = some (0x1C, .fiq26, true, true, 0x60008004) := by decide
/-- A prefetch abort (60_exceptions.md R395). -/
theorem test_prefetch_abort : after { rig .arm6 .svc32 0b0110 [] [] 0xE6000010 with memMap := [⟨0x8000, 0x8003, .word, .read, .privileged⟩] }
    (fun t => (t.pc, t.cpsr.mode, t.x 14, t.spsr)) = some (0x0C, .abt32, 0x8004, some (Psr.ofWord 0x60000013)) := by decide

/-! ### Witnesses: what the hypotheses of the statements can be -/

theorem witness_DecodeOfEncode : WellFormed .arm7dm (.umlal .nv true 14 15 15 0) = true ∧ WellFormed .arm3 (.swpb .al 15 15 15) = true ∧
    WellFormed .arm6 (.msrImm .al true .all 15 255) = true ∧ WellFormed .arm2 (.undefined 0xFFFFFFFF) = false ∧
    WellFormed .arm2 (.undefined 0xF1FFFFFF) = true ∧ WellFormed .arm2 (.unallocated 0xFC000000) = true := by decide

theorem witness_UndefinedWordsTrap : condPassed (demo .usr32).cpsr (condOfBits ((0xE7FFFFFF : Word).extractLsb' 28 4)) = true := by decide

/-- An instruction to run with both requests made and masked. -/
theorem witness_StepRunsTheDecodedInstruction :
    let s : State := { demo .svc32 with inputs := ⟨[⟨false, true, true⟩], none⟩, cpsr := ⟨false, false, false, false, true, true, .svc32⟩ }
    s.inputsNow.reset = false ∧ (s.inputsNow.fiq = true → s.cpsr.f = true) ∧ (s.inputsNow.irq = true → s.cpsr.i = true) ∧
    s.aborts s.pc .word .read s.priv = false ∧ wordBase s.pc ∉ s.storedWords ∧
    decode s.variant (s.wordAt s.pc) = .and .eq false 0 0 (.shiftImm 0 .lsl 0) := by decide

theorem witness_StepTakesInterrupts_fiq :
    let s : State := { demo .svc32 with inputs := ⟨[⟨false, true, true⟩], none⟩ }
    s.inputsNow.reset = false ∧ s.inputsNow.fiq = true ∧ s.cpsr.f = false := by decide
theorem witness_StepTakesInterrupts_irq :
    let s : State := { demo .svc32 with inputs := ⟨[⟨false, true, true⟩], none⟩, cpsr := ⟨false, false, false, false, false, true, .svc32⟩ }
    s.inputsNow.reset = false ∧ (s.inputsNow.fiq = true → s.cpsr.f = true) ∧ s.inputsNow.irq = true ∧ s.cpsr.i = false := by decide
theorem witness_StepTakesInterrupts_abort :
    let s : State := { demo .usr32 with memMap := [⟨0x8000, 0x8000, .word, .read, .user⟩] }
    s.inputsNow.reset = false ∧ (s.inputsNow.fiq = true → s.cpsr.f = true) ∧ (s.inputsNow.irq = true → s.cpsr.i = true) ∧
    s.aborts s.pc .word .read s.priv = true := by decide
theorem witness_ResetInputOverrides : ({ demo .usr32 with inputs := ⟨[⟨true, true, true⟩], none⟩ } : State).inputsNow.reset = true := by decide
theorem witness_StoredWordIsRefused :
    let s : State := { demo .svc32 with storedWords := [0x8000] }
    s.inputsNow.reset = false ∧ (s.inputsNow.fiq = true → s.cpsr.f = true) ∧ (s.inputsNow.irq = true → s.cpsr.i = true) ∧
    s.aborts s.pc .word .read s.priv = false ∧ s.pc.toNat / 4 * 4 ∈ s.storedWords := by decide

theorem witness_FailedConditionDoesNothing :
    conditionOf (.swi .eq 0) = some .eq ∧ condPassed (demo .usr32).cpsr .eq = false ∧ (demo .usr32).pc ≠ (demo .usr32).pcTop := by decide
theorem witness_FailedConditionDoesNothing_top :
    let s : State := { demo .usr26 with pc := 0x03FFFFFC }
    conditionOf (.b .nv 0) = some .nv ∧ condPassed s.cpsr .nv = false ∧ s.pc = s.pcTop := by decide

/-! #### Data processing -/

theorem demo_ready (m : Mode) : (demo m).Ready .al := by cases m <;> exact ⟨by decide, by decide⟩

theorem witness_DataProcessingResult : (demo .svc32).Ready .al ∧ (14 : RegNum) ≠ 15 ∧ DataOp.Admits .add 15 (.shiftImm 15 .lsl 0) ∧
    DataOp.Admits .mvn 0 (.shiftReg 14 .ror 14) :=
  ⟨demo_ready _, by decide, ⟨by decide, by intro _ _ _ h; cases h⟩, ⟨by decide, by intro _ _ _ h; cases h; decide⟩⟩
theorem witness_ComparisonFlags : (demo .svc32).Ready .al ∧ DataOp.Admits (TestOp.op .cmn) 15 (.imm 15 255) :=
  ⟨demo_ready _, by decide, by intro _ _ _ h; cases h⟩
theorem witness_ConditionsAfterCompare : (demo .svc32).Ready .al ∧ ∃ t, exec (.cmp .al 0 1 (.imm 0 1)) (demo .svc32) = .next t :=
  ⟨demo_ready _, _, rfl⟩
/-- At the top of the range of each width, for the clauses in their order. -/
theorem witness_SteppingPastTheTopIsRefused :
    let s := atTop (rig .arm7dm .svc26 0 [(1, 0x9000)] [] 0)
    let u := atTop { rig .arm7dm .svc32 0 [(1, 0x9000)] [] 0 with coprocs := (Vector.replicate 16 none).set 1 (some ⟨[⟨0, 0⟩], []⟩) }
    condPassed s.cpsr .al = true ∧ s.pc = s.pcTop ∧ u.pc = u.pcTop ∧ DataOp.Admits .add 1 (.imm 0 0) ∧ s.is26 = true ∧
    TransferAdmits false false .post 1 0 (.imm 4) ∧ u.Reaches false (u.transferAddr .post true 1 (.imm 4)) ∧
    u.aborts (u.transferAddr .post true 1 (.imm 4)) (transferSize false) .write (u.privOf false) = false ∧
    u.BlockAdmits true false true 1 0x4001 ∧ u.BlockAdmits false true false 1 0xFFFF ∧ u.BlockReaches 0x9000 16 .write ∧
    u.Reaches false (u.x 1) ∧ u.isPrivileged = true ∧ u.MsrAdmits .all 0x10 ∧ s.MsrAdmits .ctl 0x13 ∧
    (∃ a ∈ [(⟨0, 0⟩ : AcceptPattern)], encode (.cdp .al 1 9 0 1 3 15) &&& a.mask = a.value) ∧ (1 : RegNum) ≠ 15 :=
  ⟨by decide, by decide, by decide, ⟨by decide, by intro _ _ _ h; cases h⟩, by decide, ⟨by decide, by decide, by decide, by intro _ _ _ h; cases h⟩,
    ⟨by decide, by decide⟩, by decide, by unfold State.BlockAdmits; decide, by unfold State.BlockAdmits; decide,
    by unfold State.BlockReaches State.Reaches; decide, ⟨by decide, by decide⟩, by decide,
    ⟨fun _ => ⟨.usr32, by decide⟩, fun h => absurd h (by decide)⟩, ⟨fun _ => ⟨.svc32, by decide⟩, fun h => absurd h (by decide)⟩,
    by decide, by decide⟩
theorem witness_PFormsWriteThePsr : (demo .svc26).Ready .al ∧ DataOp.Admits (TestOp.op .teq) 15 (.imm 0 3) ∧ (demo .svc26).is26 = true ∧
    (demo .usr32).is26 = false :=
  ⟨demo_ready _, ⟨by decide, by intro _ _ _ h; cases h⟩, by decide, by decide⟩
theorem witness_DataProcessingToPc : condPassed (demo .usr26).cpsr .al = true ∧ DataOp.Admits .mov 0 (.shiftImm 14 .lsl 0) :=
  ⟨by decide, by decide, by intro _ _ _ h; cases h⟩
/-- In a 32-bit mode: a return to a 26-bit mode with the highest address it has. -/
theorem witness_DataProcessingReturns :
    let s := rig .arm7dm .irq32 0 [(14, 0x03FFFFFC)] [] 0
    condPassed s.cpsr .al = true ∧ DataOp.Admits .mov 0 (.shiftImm 14 .lsl 0) ∧
    s.CanReturn (DataOp.value .mov (s.readRn 0) (s.shifterOperand (.shiftImm 14 .lsl 0)).val s.cpsr.c) ∧ (demo .usr32).cpsr.mode = .usr32 :=
  ⟨by decide, ⟨by decide, by intro _ _ _ h; cases h⟩, fun _ => ⟨_, .usr26, rfl, rfl, by decide⟩, by decide⟩
theorem witness_DataProcessingReturns_26 (v : Word) : (demo .usr26).CanReturn v := fun h => absurd h (by decide)
/-- The three ways in which a return is refused: usr_32, an SPSR with no defined mode, and one with a 26-bit mode at the first pc beyond it. -/
theorem witness_DataProcessingReturns_refused :
    let s : State := { demo .svc32 with spsrSvc := ⟨false, false, false, false, false, false, 5⟩ }
    (demo .usr32).ReturnRefused 0x8000 .spsrInUser ∧ s.ReturnRefused 0x8000 .modeIllegal ∧
    (demo .svc32).ReturnRefused 0x04000000 .pcAbove64MIn26bit :=
  ⟨⟨by decide, .inl (by decide)⟩, ⟨by decide, .inr ⟨_, rfl, .inl (by decide)⟩⟩,
    ⟨by decide, .inr ⟨_, rfl, .inr ⟨.usr26, by decide, by decide, by decide, rfl⟩⟩⟩⟩
theorem witness_DataProcessingRefused : condPassed (demo .svc32).cpsr .al = true ∧ (DataOp.readsRn .mov = false → (0 : RegNum) = 0) ∧
    DataOp.readsRn .mvn = false ∧ (1 : RegNum) ≠ 0 := by decide

/-- The amounts where the rows of the shift tables meet. -/
theorem witness_shift_amounts : ∀ n ∈ [1, 31, 32, 33, 64, 255], 0 < n ∧ n < 256 := by decide
theorem witness_ReadingR15 : (demo .usr32).is26 = false ∧ (demo .usr26).is26 = true := by decide
theorem witness_Branches : condPassed (demo .usr26).cpsr .al = true := by decide

/-! #### Multiplies -/

theorem witness_MultiplyResult : (demo .usr32).Ready .al ∧ (0 : RegNum) ≠ 1 ∧ (0 : RegNum) ≠ 15 ∧ (1 : RegNum) ≠ 15 ∧ (14 : RegNum) ≠ 15 :=
  ⟨demo_ready _, by decide⟩
theorem witness_LongMultiplyResult : (demo .usr32).Ready .al ∧ (1 : RegNum) ≠ 15 ∧ (0 : RegNum) ≠ 15 ∧ (2 : RegNum) ≠ 15 ∧
    (1 : RegNum) ≠ 0 ∧ (1 : RegNum) ≠ 2 ∧ (0 : RegNum) ≠ 2 ∧
    ∃ p : Int, p = ((demo .usr32).x 2).toInt * ((demo .usr32).x 1).toInt + ((demo .usr32).x 1).toNat * 2 ^ 32 + ((demo .usr32).x 0).toNat :=
  ⟨demo_ready _, by decide, by decide, by decide, by decide, by decide, by decide, _, rfl⟩
theorem witness_MultiplyRefused : condPassed (demo .usr32).cpsr .al = true ∧ (14 : RegNum) ≠ 15 ∧
    ¬ ((1 : RegNum) = 15 ∨ (1 : RegNum) = 15 ∨ (15 : RegNum) = 1 ∨ (2 : RegNum) = 15) := by decide

/-! #### Transfers -/

theorem witness_SingleLoadResult :
    let s := rig .arm7dm .usr32 0 [(1, 0xFFFFFFFC)] [] 0
    s.Ready .al ∧ TransferAdmits false false .pre 1 0 (.imm 0) ∧ (0 : RegNum) ≠ 15 ∧ s.Reaches false (s.transferAddr .pre true 1 (.imm 0)) ∧
    s.aborts (s.transferAddr .pre true 1 (.imm 0)) (transferSize false) .read (s.privOf false) = false :=
  ⟨⟨by decide, by decide⟩, ⟨by decide, by decide, by decide, by intro _ _ _ h; cases h⟩, by decide, ⟨by decide, by decide⟩, by decide⟩
/-- A T form, a register offset, a byte at the top of the 26-bit range. -/
theorem witness_SingleLoadResult_t :
    let s := rig .arm3 .svc26 0 [(1, 0x03FFFFFF)] [] 0
    s.Ready .al ∧ TransferAdmits true true .post 1 0 (.shifted 0 .lsl 0) ∧ s.Reaches true (s.transferAddr .post true 1 (.shifted 0 .lsl 0)) ∧
    s.aborts (s.transferAddr .post true 1 (.shifted 0 .lsl 0)) (transferSize true) .read (s.privOf true) = false :=
  ⟨⟨by decide, by decide⟩, ⟨by decide, by decide, by decide, by intro _ _ _ h; cases h; decide⟩, ⟨by decide, by decide⟩, by decide⟩
theorem witness_SingleTransferAddress : (14 : RegNum) ≠ 15 := by decide
theorem witness_SingleLoadToPc :
    let s := rig .arm7dm .usr32 0 [(1, 0x9000)] [] 0
    condPassed s.cpsr .al = true ∧ TransferAdmits false false .preWriteBack 1 15 (.imm 4) ∧
    s.Reaches false (s.transferAddr .preWriteBack true 1 (.imm 4)) ∧
    s.aborts (s.transferAddr .preWriteBack true 1 (.imm 4)) .word .read (s.privOf false) = false :=
  ⟨by decide, ⟨by decide, by decide, by decide, by intro _ _ _ h; cases h⟩, ⟨by decide, by decide⟩, by decide⟩
/-- A store of R15 relative to R15, and a byte store with write-back. -/
theorem witness_SingleStoreResult :
    let s := demo .svc26
    s.MemOk ∧ s.Ready .al ∧ TransferAdmits false false .pre 15 15 (.imm 8) ∧ s.Reaches false (s.transferAddr .pre true 15 (.imm 8)) ∧
    s.aborts (s.transferAddr .pre true 15 (.imm 8)) (transferSize false) .write (s.privOf false) = false :=
  ⟨by unfold State.MemOk; decide, demo_ready _, ⟨by decide, by decide, by decide, by intro _ _ _ h; cases h⟩, ⟨by decide, by decide⟩, by decide⟩
theorem witness_SingleStoreResult_byte :
    let s := rig .arm7dm .usr32 0 [(1, 0xFFFFFFFF)] [] 0
    s.MemOk ∧ s.Ready .al ∧ TransferAdmits true false .post 1 0 (.imm 1) ∧ s.Reaches true (s.transferAddr .post true 1 (.imm 1)) ∧
    s.aborts (s.transferAddr .post true 1 (.imm 1)) (transferSize true) .write (s.privOf false) = false :=
  ⟨by unfold State.MemOk; decide, ⟨by decide, by decide⟩, ⟨by decide, by decide, by decide, by intro _ _ _ h; cases h⟩, ⟨by decide, by decide⟩,
    by decide⟩
theorem witness_SingleTransferAborts :
    let s := demoAbort .word .read
    condPassed s.cpsr .al = true ∧ TransferAdmits false false .preWriteBack 1 2 (.imm 0) ∧
    s.Reaches false (s.transferAddr .preWriteBack true 1 (.imm 0)) ∧
    s.aborts (s.transferAddr .preWriteBack true 1 (.imm 0)) (transferSize false) (if true then .read else .write) (s.privOf false) = true :=
  ⟨by decide, ⟨by decide, by decide, by decide, by intro _ _ _ h; cases h⟩, ⟨by decide, by decide⟩, by decide⟩
theorem witness_SingleTransferStops :
    let s := rig .arm3 .svc26 0 [(1, 0x04000000), (2, 0x9002)] [] 0
    condPassed s.cpsr .al = true ∧ ¬ TransferAdmits false false .post 1 1 (.imm 0) ∧
    (TransferAdmits false false .pre 2 0 (.imm 0) ∧ (s.transferAddr .pre true 2 (.imm 0)).toNat % 4 ≠ 0) ∧
    (TransferAdmits false false .pre 1 0 (.imm 0) ∧ (s.transferAddr .pre true 1 (.imm 0)).toNat % 4 = 0 ∧ s.variant.isArm6Plus = false ∧
      2 ^ 26 ≤ (s.transferAddr .pre true 1 (.imm 0)).toNat) :=
  ⟨by decide, fun h => (h.2.1 (by decide)).2 rfl,
    ⟨⟨by decide, by decide, by decide, by intro _ _ _ h; cases h⟩, by decide⟩,
    ⟨by decide, by decide, by decide, by intro _ _ _ h; cases h⟩, by decide, by decide, by decide⟩

theorem witness_BlockAddresses : ∀ n ∈ [1, 16], 0 < n := by decide
theorem witness_LoadMultipleResult :
    let s := rig .arm7dm .irq32 0 [(0, 0x9000)] [] 0
    s.Ready .al ∧ (0 : RegNum) ≠ 15 ∧ (0x6001 : BitVec 16) ≠ 0 ∧ (0x6001 : BitVec 16).getLsbD 15 = false ∧ s.isPrivileged = true ∧
    s.BlockReaches (blockStart .db (s.x 0) (listRegs 0x6001).length) (listRegs 0x6001).length .read :=
  ⟨⟨by decide, by decide⟩, by decide, by decide, by decide, by decide, by unfold State.BlockReaches State.Reaches; decide⟩
theorem witness_LoadMultipleResult_writeback :
    let s := rig .arm7dm .usr32 0 [(0, 0x9000)] [] 0
    s.Ready .al ∧ (0x000E : BitVec 16) ≠ 0 ∧ (0x000E : BitVec 16).getLsbD 15 = false ∧ (true = true → (0x000E : BitVec 16).getLsbD 0 = false) ∧
    s.BlockReaches (blockStart .da (s.x 0) (listRegs 0x000E).length) (listRegs 0x000E).length .read :=
  ⟨⟨by decide, by decide⟩, by decide, by decide, by decide, by unfold State.BlockReaches State.Reaches; decide⟩
/-- All sixteen registers, and with S in a 26-bit mode. -/
theorem witness_LoadMultipleWithPc :
    let s := rig .arm3 .usr26 0 [(0, 0x9000)] [] 0
    condPassed s.cpsr .al = true ∧ (0 : RegNum) ≠ 15 ∧ (0xFFFF : BitVec 16).getLsbD 15 = true ∧
    s.BlockReaches (blockStart .ia (s.x 0) (listRegs 0xFFFF).length) (listRegs 0xFFFF).length .read ∧ ∀ v, s.CanReturn v :=
  ⟨by decide, by decide, by decide, by unfold State.BlockReaches State.Reaches; decide, fun _ h => absurd h (by decide)⟩
/-- The last of two words holds an address beyond a 26-bit mode, which is the mode of the SPSR. -/
theorem witness_LoadMultipleWithPc_refused :
    let s := rig .arm7dm .svc32 0 [(0, 0x9000)] [(0x9004, 0x04000000)] 0
    condPassed s.cpsr .al = true ∧ (0 : RegNum) ≠ 15 ∧ (0x8002 : BitVec 16).getLsbD 15 = true ∧
    s.BlockReaches (blockStart .ia (s.x 0) (listRegs 0x8002).length) (listRegs 0x8002).length .read ∧
    s.ReturnRefused (BitVec.ofNat 32
      (s.leWord (wordAddr (blockStart .ia (s.x 0) (listRegs 0x8002).length) ((listRegs 0x8002).length - 1)).toNat)) .pcAbove64MIn26bit :=
  ⟨by decide, by decide, by decide, by unfold State.BlockReaches State.Reaches; decide,
    ⟨by decide, .inr ⟨_, rfl, .inr ⟨.usr26, by decide, by decide, by decide, rfl⟩⟩⟩⟩
theorem witness_StoreMultipleResult :
    let s := rig .arm7dm .svc32 0 [(1, 0x9000)] [] 0
    s.MemOk ∧ s.Ready .al ∧ (1 : RegNum) ≠ 15 ∧ (0x8003 : BitVec 16) ≠ 0 ∧ (true = true → s.isPrivileged = true ∧ false = false) ∧
    s.BlockReaches (blockStart .ib (s.x 1) (listRegs 0x8003).length) (listRegs 0x8003).length .write :=
  ⟨by unfold State.MemOk; decide, ⟨by decide, by decide⟩, by decide, by decide, by decide, by unfold State.BlockReaches State.Reaches; decide⟩
/-- The base, written back, is first in the list and its word is stored before the abort. -/
theorem witness_BlockTransferAborts :
    let s := demoAbort .word .write
    s.MemOk ∧ condPassed s.cpsr .al = true ∧ s.BlockAdmits false false true 0 0x0003 ∧
    (∀ k < (listRegs 0x0003).length, s.Reaches false (wordAddr (blockStart .ia (s.x 0) (listRegs 0x0003).length) k)) ∧
    1 < (listRegs 0x0003).length ∧ s.BlockReaches (blockStart .ia (s.x 0) (listRegs 0x0003).length) 1 .write ∧
    s.aborts (wordAddr (blockStart .ia (s.x 0) (listRegs 0x0003).length) 1) .word .write s.priv = true ∧
    (listRegs 0x0003)[0]? = some 0 ∧ ¬ ((0 : RegNum) = 0 ∧ true = true ∧ (0 : Nat) ≠ 0) :=
  ⟨by unfold State.MemOk; decide, by decide, by unfold State.BlockAdmits; decide, by unfold State.Reaches; decide, by decide,
    by unfold State.BlockReaches State.Reaches; decide, by decide, by decide, by decide⟩
/-- A load with S and R15 in usr_26. -/
theorem witness_BlockTransferAborts_load :
    let s : State := { rig .arm3 .usr26 0 [(0, 0x9000)] [] 0 with memMap := [⟨0x9004, 0x9007, .word, .read, .user⟩] }
    condPassed s.cpsr .al = true ∧ s.BlockAdmits true true true 0 0x800E ∧
    (∀ k < (listRegs 0x800E).length, s.Reaches false (wordAddr (blockStart .ia (s.x 0) (listRegs 0x800E).length) k)) ∧
    1 < (listRegs 0x800E).length ∧ s.aborts (wordAddr (blockStart .ia (s.x 0) (listRegs 0x800E).length) 1) .word .read s.priv = true :=
  ⟨by decide, by unfold State.BlockAdmits; decide, by unfold State.Reaches; decide, by decide, by decide⟩
theorem witness_BlockTransferRefused :
    let s := rig .arm7dm .usr32 0 [(1, 0x9002)] [] 0
    condPassed s.cpsr .al = true ∧ (1 : RegNum) ≠ 15 ∧ (0x0002 : BitVec 16).getLsbD 1 = true ∧ s.isPrivileged = false ∧ s.cpsr.mode = .usr32 ∧
    (0x8000 : BitVec 16).getLsbD 15 = true ∧ (demo .svc32).isPrivileged = true ∧ (0x0001 : BitVec 16) ≠ 0 ∧
    (0x0001 : BitVec 16).getLsbD 15 = false ∧ (0x0001 : BitVec 16).getLsbD 1 = false := by decide
/-- An unaligned start with write-back and with S; the highest word of three on a 26-bit bus, and the next one. -/
theorem witness_BlockTransferRefused_address :
    let s := rig .arm3 .svc26 0 [(1, 0x9002), (2, 0x03FFFFF8)] [] 0
    s.BlockAdmits true false true 1 0x0001 ∧ s.BlockAdmits false true false 1 0x0001 ∧ (s.x 1).toNat % 4 ≠ 0 ∧
    s.BlockAdmits true false true 2 0x000B ∧ (s.x 2).toNat % 4 = 0 ∧ s.variant.isArm6Plus = false ∧
    ¬ 2 ^ 26 ≤ (wordAddr (blockStart .ia (s.x 2) (listRegs 0x000B).length) 1).toNat ∧
    (∃ k < (listRegs 0x000B).length, 2 ^ 26 ≤ (wordAddr (blockStart .ia (s.x 2) (listRegs 0x000B).length) k).toNat) :=
  ⟨by unfold State.BlockAdmits; decide, by unfold State.BlockAdmits; decide, by decide, by unfold State.BlockAdmits; decide, by decide, by decide,
    by decide, 2, by decide, by decide⟩

/-! #### Exceptions, coprocessors, swaps, status transfers -/

theorem witness_SoftwareInterruptEnters : condPassed (demo .usr26).cpsr .al = true := by decide
theorem witness_ReturnFromException : (demo .usr26).ModeOk ∧ (0x03FFFFFC : Word).extractLsb' 0 2 = 0 ∧
    ((demo .usr26).is26 = true → (0x03FFFFFC : Word).extractLsb' 26 6 = 0) :=
  ⟨by unfold State.ModeOk; decide, by decide, by decide⟩
/-- A coprocessor that is absent, and one that is present and turns the word away. -/
theorem witness_CoprocessorAbsent : condPassed (demo .usr26).cpsr .al = true ∧ (demo .usr26).coprocs[1] = none ∧
    ∀ a ∈ ([⟨0xFFFFFFFF, 0⟩] : List AcceptPattern), encode (.cdp .al 1 9 0 1 3 15) &&& a.mask ≠ a.value := by decide
theorem witness_CoprocessorOperations : demoCoproc.Ready .al ∧ demoCoproc.coprocs[(1 : RegNum).toNat]'(by decide) = some ⟨[⟨0, 0⟩], []⟩ ∧
    (∃ a ∈ [(⟨0, 0⟩ : AcceptPattern)], encode (.mrc .al 0 0 15 1 0 0) &&& a.mask = a.value) ∧ (0 : RegNum) ≠ 15 :=
  ⟨⟨by decide, by decide⟩, by decide, by decide, by decide⟩
/-- However many words the coprocessor transfers. -/
theorem witness_CoprocessorTransfers (n : Nat) : demoCoproc.MemOk ∧ demoCoproc.Ready .al ∧
    demoCoproc.coprocs[(1 : RegNum).toNat]'(by decide) = some ⟨[⟨0, 0⟩], []⟩ ∧ (Indexing.post ≠ .pre → (14 : RegNum) ≠ 15) ∧
    (∃ a ∈ [(⟨0, 0⟩ : AcceptPattern)], encode (.stc .al .post true true 14 0 1 1) &&& a.mask = a.value) ∧
    demoCoproc.BlockReaches 0x9000 n .read ∧ demoCoproc.BlockReaches 0x9000 n .write := by
  refine ⟨by unfold State.MemOk; decide, ⟨by decide, by decide⟩, by decide, by decide, by decide, ?_, ?_⟩ <;>
  · intro k _
    refine ⟨⟨fun _ => ?_, fun h => absurd h (by decide)⟩, rfl⟩
    have h : (0x9000 : Word).toNat = 0x9000 := rfl
    simp only [wordAddr, BitVec.toNat_add, BitVec.toNat_mul, BitVec.toNat_ofNat, h]
    omega
/-- The first word, at the top of the 26-bit range, aborts; whether there are words beyond it does not matter. -/
theorem witness_CoprocessorTransferAborts (dir : AccessDir) (n : Nat) :
    let s := demoCoprocAt 0x03FFFFFC dir
    condPassed s.cpsr .al = true ∧ s.coprocs[(1 : RegNum).toNat]'(by decide) = some ⟨[⟨0, 0⟩], []⟩ ∧ (Indexing.post ≠ .pre → (1 : RegNum) ≠ 15) ∧
    s.readRn 1 = 0x03FFFFFC ∧ s.Reaches false (wordAddr 0x03FFFFFC 0) ∧ s.MemOk ∧
    (∃ a ∈ [(⟨0, 0⟩ : AcceptPattern)], encode (.stc .al .post true true 1 0 1 1) &&& a.mask = a.value) ∧
    (∃ a ∈ [(⟨0, 0⟩ : AcceptPattern)], encode (.ldc .al .post true true 1 0 1 1) &&& a.mask = a.value) ∧
    0 < n + 1 ∧ s.BlockReaches 0x03FFFFFC 0 dir ∧ s.aborts (wordAddr 0x03FFFFFC 0) .word dir s.priv = true := by
  cases dir <;> exact ⟨by decide, by decide, by decide, by decide, ⟨by decide, by decide⟩, by unfold State.MemOk; decide, by decide, by decide,
    Nat.succ_pos n, (fun k h => absurd h (Nat.not_lt_zero k)), by decide⟩
theorem witness_CoprocessorStops (n : Nat) :
    let s := demoCoprocAt 0x04000000 .read
    condPassed s.cpsr .al = true ∧ s.coprocs[(1 : RegNum).toNat]'(by decide) = some ⟨[⟨0, 0⟩], []⟩ ∧
    (∃ a ∈ [(⟨0, 0⟩ : AcceptPattern)], encode (.ldc .al .post true true 1 0 1 1) &&& a.mask = a.value) ∧
    ((demoCoprocAt 0x9002 .read).readRn 1).toNat % 4 ≠ 0 ∧ (s.readRn 15).toNat % 4 = 0 ∧
    (s.readRn 1).toNat % 4 = 0 ∧ s.variant.isArm6Plus = false ∧ 0 < n + 1 ∧ s.BlockReaches (s.readRn 1) 0 .read ∧
    2 ^ 26 ≤ (wordAddr (s.readRn 1) 0).toNat :=
  ⟨by decide, by decide, by decide, by decide, by decide, by decide, by decide, Nat.succ_pos n, (fun k h => absurd h (Nat.not_lt_zero k)), by decide⟩
theorem witness_SwapResult :
    let s := rig .arm7dm .usr32 0 [(2, 0xFFFFFFFC)] [] 0
    s.MemOk ∧ s.Ready .al ∧ (2 : RegNum) ≠ 15 ∧ s.Reaches false (s.x 2) ∧ s.aborts (s.x 2) (transferSize false) .read s.priv = false ∧
    s.aborts (s.x 2) (transferSize false) .write s.priv = false :=
  ⟨by unfold State.MemOk; decide, ⟨by decide, by decide⟩, by decide, ⟨by decide, by decide⟩, by decide, by decide⟩
theorem witness_SwapStopsAndAborts :
    let s := demoAbort .byte .write
    condPassed s.cpsr .al = true ∧ (1 : RegNum) ≠ 15 ∧ s.Reaches true (s.x 1) ∧ s.lock = false ∧
    s.aborts (s.x 1) (transferSize true) .write s.priv = true ∧ ((rig .arm3 .svc26 0 [(2, 0x9002)] [] 0).x 2).toNat % 4 ≠ 0 ∧
    ((rig .arm3 .svc26 0 [(2, 0x04000000)] [] 0).x 2).toNat % 4 = 0 ∧ 2 ^ 26 ≤ ((rig .arm3 .svc26 0 [(2, 0x04000000)] [] 0).x 2).toNat :=
  ⟨by decide, by decide, ⟨by decide, by decide⟩, by decide, by decide, by decide, by decide, by decide⟩
theorem witness_MrsReadsAStatus : (demo .svc32).Ready .al ∧ (0 : RegNum) ≠ 15 ∧
    (∃ p, (if true then (demo .svc32).spsr else some (demo .svc32).cpsr.toPsr) = some p) ∧
    ∃ p, (if false then (demo .usr32).spsr else some (demo .usr32).cpsr.toPsr) = some p :=
  ⟨demo_ready _, by decide, ⟨_, rfl⟩, _, rfl⟩
/-- From svc_32 to a 26-bit mode at the last address where that is possible; and the flags alone in user mode. -/
theorem witness_MsrWritesTheCpsr :
    let s : State := { rig .arm7dm .svc32 0 [(1, 0xF0000013), (2, 0xF0000003)] [] 0 with pc := 0x03FFFFF8 }
    s.Ready .al ∧ (∃ rm, rm ≠ 15#4 ∧ Instr.msrReg .al false .all 2 = .msrReg .al false .all rm ∧ s.x 2 = s.x rm) ∧
    s.MsrAdmits .all (s.x 2) :=
  ⟨⟨by decide, by decide⟩, ⟨2, by decide, rfl, rfl⟩, fun _ => ⟨.svc26, by decide⟩, fun _ => by decide⟩
theorem witness_MsrWritesTheCpsr_user :
    let s := demo .usr32
    s.Ready .al ∧ ¬ (PsrPart.ctl ≠ .flg ∧ s.isPrivileged = true) ∧ s.MsrAdmits .ctl 0xF00000D0 :=
  ⟨demo_ready _, by decide, fun h => absurd h (by decide), fun h => absurd h (by decide)⟩
theorem witness_MsrWritesTheSpsr : (demo .und32).Ready .al ∧ (∃ p, (demo .und32).spsr = some p) ∧
    ∃ r b, Instr.msrImm .al true .flg 2 15 = .msrImm .al true .flg r b ∧ (0xF0000000 : Word) = rotatedImm r b :=
  ⟨demo_ready _, ⟨_, rfl⟩, 2, 15, rfl, by decide⟩
theorem witness_StatusTransferRefused :
    let s := rig .arm7dm .svc32 0 [(1, 7)] [] 0
    condPassed s.cpsr .al = true ∧ (demo .usr32).isPrivileged = false ∧ s.isPrivileged = true ∧ PsrPart.ctl ≠ .flg ∧
    Mode.ofBits ((s.x 1).extractLsb' 0 5) = none ∧
    (∃ r b, Instr.msrImm .al false .ctl 0 31 = .msrImm .al false .ctl r b ∧ Mode.ofBits ((rotatedImm r b).extractLsb' 0 5) = none) :=
  ⟨by decide, by decide, by decide, by decide, by decide, 0, 31, rfl, by decide⟩
/-- At the first address from which a 26-bit mode cannot be entered, and in one at the top of its range. -/
theorem witness_StatusTransferRefused_range :
    let s : State := { demo .svc32 with pc := 0x03FFFFFC }
    (if PsrPart.ctl ≠ .flg ∧ s.isPrivileged = true then ∃ m, Mode.ofBits ((3 : Word).extractLsb' 0 5) = some m ∧ m.is26 = true
      else s.is26 = true) ∧ (s.pc + 4).extractLsb' 26 6 ≠ 0#6 ∧ (atTop (demo .usr26)).is26 = true ∧
    ((atTop (demo .usr26)).pc + 4).extractLsb' 26 6 ≠ 0#6 := by
  refine ⟨?_, by decide, by decide, by decide⟩
  rw [if_pos (by decide)]
  exact ⟨.svc26, by decide, by decide⟩

/-! #### Invariants and privilege -/

/-- The reset state of every processor meets the invariant, and its first step completes. -/
theorem witness_StepKeepsInvariant : State.reset.Inv ∧ ∃ t, step State.reset = .next t :=
  ⟨⟨⟨by decide, by decide⟩, by unfold State.ModeOk; decide, by unfold State.MemOk; decide, ⟨List.Pairwise.nil, by decide⟩, rfl⟩, _, rfl⟩
/-- A step from user mode that is no exception, and one that is. -/
theorem witness_UserModeIsConfined : (demo .usr26).cpsr.mode.bank = .usr ∧ (∃ t, step (demo .usr26) = .next t) ∧
    ∃ t, step (rig .arm7dm .usr32 0 [] [] 0xEF000000) = .next t := ⟨by decide, ⟨_, rfl⟩, _, rfl⟩
theorem witness_ParametersAreFixed : ∃ t, step (demo .usr26) = .next t := ⟨_, rfl⟩

/-! ### The order of the accesses of LDC and STC, the schedule, a run -/

/-- Three words from 0x03FFFFF8 on with a 26-bit bus: an abort at the second ends the transfer before it comes to the third (R300, R357);
without it the third is beyond the bus (R71). -/
theorem test_coprocessor_access_order :
    let words := fun (s : State) (dir : AccessDir) => s.checkedCoproc .pre true 1 0 3 dir fun l => .next { s with draws := l.length }
    (∃ t, words (demoCoprocAt 0x03FFFFF8 .read) .read = .next t) ∧
    words (demoCoprocAt 0x03FFFFF8 .read) .write = .fault .addressAbove64M := ⟨⟨_, rfl⟩, rfl⟩
/-- A request that never ends (R360): the open schedule after the list is over, one sample a step. -/
theorem test_schedule : let q : Schedule := ⟨[⟨false, false, true⟩], some 7⟩
    q.now = ⟨false, false, true⟩ ∧ q.rest.now = Config.scheduled 7 ∧ q.rest.rest.now = Config.scheduled 8 := ⟨rfl, rfl, rfl⟩
/-- `END_OF_RUN` as an address: two steps of MOV R0,R0. -/
theorem test_run : (match runUntil (fun s => s.pc == 0x8008) 5 (rig .arm2 .usr26 0 [] [(0x8004, 0xE1A00000)] 0xE1A00000) with
    | .ended t => some t.pc | .going _ | .faulted _ _ | .refused _ _ => none) = some 0x8008 := by decide
/-- SWI at the top of a 26-bit mode: `ret[25:2]` of R353 on an ARM 3; the whole address on an ARM7DM (log 30). -/
theorem test_saved_address_at_the_top :
    (match exec (.swi .al 0) (atTop (demo .usr26)) with
      | .next t => some (t.x 14) | .fault _ | .refused _ => none) = some 0x04000000 ∧
    (match exec (.swi .al 0) (atTop (rig .arm3 .usr26 0b0010 [] [] 0)) with
      | .next t => some (t.x 14) | .fault _ | .refused _ => none) = some 0x20000000 := by decide
/-- At the top of the range MOV R0,R0 is refused (R30). -/
theorem test_pc_wrap : exec (.mov .al false 0 0 (.shiftImm 0 .lsl 0)) (atTop (demo .svc26)) = .refused .pcWrap := by rfl

end Sys2Proof.Tests
end

section
/-! The 26-bit layout of R15 and what a read of R15 yields (10_state.md R28, R31, R32). -/

namespace Sys2Proof.Machine

/-! ### The parts of the 26-bit layout -/

/-- The flags and the interrupt masks stand in bits 31..26. -/
theorem psrWord26_flags (c : Cpsr) (a : Word) :
    (psrWord26 c a).getLsbD 31 = c.n ∧ (psrWord26 c a).getLsbD 30 = c.z ∧ (psrWord26 c a).getLsbD 29 = c.c ∧
      (psrWord26 c a).getLsbD 28 = c.v ∧ (psrWord26 c a).getLsbD 27 = c.i ∧ (psrWord26 c a).getLsbD 26 = c.f := by
  unfold psrWord26
  refine ⟨?_, ?_, ?_, ?_, ?_, ?_⟩ <;>
    simp only [getLsbD_append_upper, getLsbD_append_lower, getLsbD_ofBool_zero, Nat.reduceLeDiff, Nat.reduceLT, Nat.reduceSub]

/-- Bits 25..2 are those of the address. -/
theorem psrWord26_getLsbD_addr (c : Cpsr) (a : Word) {i : Nat} (hlo : 2 ≤ i) (hhi : i < 26) :
    (psrWord26 c a).getLsbD i = a.getLsbD i := by
  have hfield : i - 2 < 24 := by omega
  have hplace : 2 + (i - 2) = i := by omega
  unfold psrWord26
  rw [getLsbD_append_upper _ _ _ hlo, getLsbD_append_lower _ _ _ hfield, BitVec.getLsbD_extractLsb', hplace]
  simp [hfield]

/-- Bits 1..0 are those of the mode. -/
theorem psrWord26_mode (c : Cpsr) (a : Word) : (psrWord26 c a).extractLsb' 0 2 = c.mode.toBits.extractLsb' 0 2 := by
  unfold psrWord26
  rw [extractLsb'_append_lower _ _ 0 2 (le_refl 2), BitVec.extractLsb'_eq_self]

/-- The mask of the 26-bit pc keeps bits 25..2. -/
theorem pcMask26_getLsbD (i : Nat) : (0x03FFFFFC#32).getLsbD i = decide (2 ≤ i ∧ i < 26) := by
  by_cases h : i < 32
  · revert i; decide
  · rw [BitVec.getLsbD_of_ge _ _ (by omega)]
    exact (decide_eq_false (by omega)).symm

/-- Two words with the same bits 25..2 are the same under the mask of the 26-bit pc. -/
theorem and_pcMask26_congr {v w : Word} (h : ∀ i, 2 ≤ i → i < 26 → v.getLsbD i = w.getLsbD i) :
    v &&& 0x03FFFFFC#32 = w &&& 0x03FFFFFC#32 := by
  apply BitVec.eq_of_getLsbD_eq
  intro i _
  rw [BitVec.getLsbD_and, BitVec.getLsbD_and, pcMask26_getLsbD]
  by_cases hi : 2 ≤ i ∧ i < 26
  · obtain ⟨hlo, hhi⟩ := hi
    rw [h i hlo hhi]
  · simp [hi]

/-- The address part of the 26-bit layout. -/
theorem psrWord26_and_pcMask26 (c : Cpsr) (a : Word) : psrWord26 c a &&& 0x03FFFFFC#32 = a &&& 0x03FFFFFC#32 :=
  and_pcMask26_congr fun _ => psrWord26_getLsbD_addr c a

/-! ### What a read of R15 yields -/

section ReadR15
variable {s : State}

theorem State.readRn_fifteen_of_32 (h : s.is26 = false) : s.readRn 15#4 = s.pc + 8#32 := by
  simp [State.readRn, State.r15Pc, h]

theorem State.readRn_fifteen_of_26 (h : s.is26 = true) : s.readRn 15#4 = (s.pc + 8#32) &&& 0x03FFFFFC#32 := by
  simp [State.readRn, State.r15Pc, h]

theorem State.readRm_fifteen (s : State) : s.readRm 15#4 = s.r15At 8#32 := rfl

theorem State.r15Stm_eq (s : State) : s.r15Stm = s.r15At 12#32 := rfl

theorem State.r15At_of_32 (h : s.is26 = false) (off : Word) : s.r15At off = s.pc + off := by
  simp [State.r15At, h]

theorem State.r15At_of_26 (h : s.is26 = true) (off : Word) : s.r15At off = psrWord26 s.cpsr (s.pc + off) := by
  simp [State.r15At, h]

end ReadR15

/-- Settles O24: both whole forms are the 26-bit layout around the address, whose parts are known. -/
theorem readingR15 : Obligations.ReadingR15 := by
  unfold Obligations.ReadingR15
  intro s
  refine ⟨fun h32 => ?_, fun h26 => ⟨State.readRn_fifteen_of_26 h26, fun v off hread => ?_⟩⟩
  · exact ⟨State.readRn_fifteen_of_32 h32, State.r15At_of_32 h32 8#32, State.r15At_of_32 h32 12#32⟩
  · have hlayout : v = psrWord26 s.cpsr (s.pc + off) := by
      rw [← State.r15At_of_26 h26]
      obtain ⟨rfl, rfl⟩ | ⟨rfl, rfl⟩ := hread
      · exact s.readRm_fifteen
      · exact s.r15Stm_eq
    subst hlayout
    obtain ⟨hn, hz, hc, hv, hi, hf⟩ := psrWord26_flags s.cpsr (s.pc + off)
    exact ⟨psrWord26_and_pcMask26 .., hn, hz, hc, hv, hi, hf, psrWord26_mode ..⟩

end Sys2Proof.Machine
end

section
/-! The words of each format (30_encoding.md R102 to R114): which words a format encodes, as fixed bits and operand fields. -/

namespace Sys2Proof

/-! ### Fields as parts and as bits -/

/-- A field consists of two parts exactly when the two adjacent fields in it are the parts. -/
theorem append_eq_extractLsb'_iff {n a b lo : Nat} {w : BitVec n} {x : BitVec a} {y : BitVec b} :
    @Eq (no_index (BitVec (a + b))) (@HAppend.hAppend (BitVec a) (BitVec b) (no_index (BitVec (a + b))) _ x y)
      (BitVec.extractLsb' lo (no_index (a + b)) w) ↔
      x = w.extractLsb' (lo + b) a ∧ y = w.extractLsb' lo b := by
  rw [← BitVec.extractLsb'_append_extractLsb'_eq_extractLsb' rfl]
  refine ⟨fun h => ?_, fun ⟨hx, hy⟩ => by rw [hx, hy]⟩
  have hx := congrArg (BitVec.extractLsb' b a) h
  have hy := congrArg (BitVec.extractLsb' 0 b) h
  rw [BitVec.extractLsb'_append_eq_left, BitVec.extractLsb'_append_eq_left] at hx
  rw [BitVec.extractLsb'_append_eq_right, BitVec.extractLsb'_append_eq_right] at hy
  exact ⟨hx, hy⟩

theorem append_eq_iff {a b : Nat} {w : BitVec (a + b)} {x : BitVec a} {y : BitVec b} :
    x ++ y = w ↔ x = w.extractLsb' b a ∧ y = w.extractLsb' 0 b := by
  have h := append_eq_extractLsb'_iff (lo := 0) (w := w) (x := x) (y := y)
  rwa [BitVec.extractLsb'_eq_self, Nat.zero_add] at h

theorem ofBool_eq_fld_one_iff {w : Word} {i : Nat} {b : Bool} : BitVec.ofBool b = fld w i 1 ↔ b = bit w i := by
  cases b <;> simp [BitVec.eq_of_getLsbD_eq_iff, bit]

/-- A field with a fixed value: its lowest bit, and the rest of it. -/
theorem fld_eq_ofNat_iff {w : Word} {lo n k : Nat} : fld w lo (n + 1) = BitVec.ofNat (n + 1) k ↔
    bit w lo = (k % 2 == 1) ∧ fld w (lo + 1) n = BitVec.ofNat n (k / 2) := by
  simp only [BitVec.eq_of_getLsbD_eq_iff, BitVec.getLsbD_extractLsb', BitVec.getLsbD_ofNat]
  have hsucc (i : Nat) (hi : i < n) :
      ((decide (i + 1 < n + 1) && bit w (lo + (i + 1))) = (decide (i + 1 < n + 1) && k.testBit (i + 1)) ↔
        (decide (i < n) && bit w (lo + 1 + i)) = (decide (i < n) && (k / 2).testBit i)) := by
    simp [hi, Nat.testBit_succ, Nat.add_assoc, Nat.add_comm 1]
  constructor
  · intro h
    exact ⟨by simpa [beq_eq_decide] using h 0 n.succ_pos, fun i hi => (hsucc i hi).mp (h (i + 1) (by omega))⟩
  · rintro ⟨h0, h⟩ (_ | i) hi
    · simpa [beq_eq_decide] using h0
    · exact (hsucc i (by omega)).mpr (h i (by omega))

theorem ofNat_eq_fld_iff {w : Word} {lo n k : Nat} : BitVec.ofNat (n + 1) k = fld w lo (n + 1) ↔
    bit w lo = (k % 2 == 1) ∧ fld w (lo + 1) n = BitVec.ofNat n (k / 2) := by
  rw [eq_comm, fld_eq_ofNat_iff]

/-! ### Operand fields -/

theorem condBits_eq_iff {c : Cond} {x : BitVec 4} : condBits c = x ↔ c = condOfBits x :=
  ⟨fun h => by rw [← h, condOfBits_condBits], fun h => by rw [h, condBits_condOfBits]⟩

theorem shiftBits_eq_iff {k : ShiftKind} {x : BitVec 2} : shiftBits k = x ↔ k = shiftOfBits x :=
  ⟨fun h => by rw [← h, shiftOfBits_shiftBits], fun h => by rw [h, shiftBits_shiftOfBits]⟩

theorem psrPartBits_eq_iff {p : PsrPart} {x : BitVec 4} : psrPartBits p = x ↔ psrPartOfBits x = some p := by
  refine ⟨fun h => by rw [← h, psrPartOfBits_psrPartBits], ?_⟩
  cases p <;> revert x <;> decide

/-- P and W of LDC and STC: P = 0 with W = 0 is reserved (30_encoding.md R111). -/
theorem indexingCoproc_eq_iff {ix : Indexing} {p w : Bool} : ix.pBit = p ∧ ix.wBitCoproc = w ↔
    ix = indexingOfBits p w ∧ (p = true ∨ w = true) := by
  cases ix <;> revert p w <;> decide

/-- The second operand that a data processing word holds (30_encoding.md R102, R103). -/
def decodeOp2 (w : Word) : Op2 := if bit w 25 then decodeOp2Imm w else decodeOp2Reg w

/-- Bits 7 and 4 of the register form are not both set (30_encoding.md R117). -/
theorem op2_eq_iff {op2 : Op2} {w : Word} : op2.iBit = fld w 25 1 ∧ op2.bits = fld w 0 12 ↔
    op2 = decodeOp2 w ∧ (bit w 25 = true ∨ bit w 7 = false ∨ bit w 4 = false) := by
  unfold decodeOp2 decodeOp2Imm decodeOp2Reg
  cases op2 <;>
    simp only [Op2.iBit, Op2.bits, append_eq_extractLsb'_iff, ofNat_eq_fld_iff, shiftBits_eq_iff, BitVec.of_length_zero,
      and_true, Nat.reduceMod, Nat.reduceBEq, Nat.reduceAdd, Nat.zero_add] <;>
    grind

/-- The offset that a single data transfer word holds (30_encoding.md R107). -/
def decodeOffset (w : Word) : Offset :=
  if bit w 25 then .shifted (fld w 0 4) (shiftOfBits (fld w 5 2)) (fld w 7 5) else .imm (fld w 0 12)

/-- Bit 4 of the register form is clear (30_encoding.md R107). -/
theorem offset_eq_iff {off : Offset} {w : Word} : off.iBit = fld w 25 1 ∧ off.bits = fld w 0 12 ↔
    off = decodeOffset w ∧ (bit w 25 = true → bit w 4 = false) := by
  unfold decodeOffset
  cases off <;>
    simp only [Offset.iBit, Offset.bits, append_eq_extractLsb'_iff, ofNat_eq_fld_iff, shiftBits_eq_iff, BitVec.of_length_zero,
      and_true, Nat.reduceMod, Nat.reduceBEq, Nat.reduceAdd, Nat.zero_add] <;>
    grind

/-! ### Formats

A format encodes `w` exactly when its fixed bits stand in `w` and each operand is the field that the decoder reads for it. -/

section Formats
variable {w : Word} {c : Cond} {sf p up byte wb hat long signed acc load : Bool} {rn rd rh rl rs rm crn crd crm cp : RegNum}

theorem encodeDataProc_eq_iff {op : BitVec 4} {op2 : Op2} : encodeDataProc c op sf rn rd op2 = w ↔
    c = condOfBits (fld w 28 4) ∧ bit w 26 = false ∧ bit w 27 = false ∧ op2.iBit = fld w 25 1 ∧ op = fld w 21 4 ∧
      sf = bit w 20 ∧ rn = fld w 16 4 ∧ rd = fld w 12 4 ∧ op2.bits = fld w 0 12 := by
  rw [encodeDataProc, append_eq_iff]
  simp [append_eq_extractLsb'_iff, ofNat_eq_fld_iff, fld_eq_ofNat_iff, condBits_eq_iff, ofBool_eq_fld_one_iff, and_assoc]

theorem encodeMultiply_eq_iff :
    encodeMultiply c (BitVec.ofBool long ++ BitVec.ofBool signed ++ BitVec.ofBool acc) sf rh rl rs rm = w ↔
      c = condOfBits (fld w 28 4) ∧ bit w 24 = false ∧ bit w 25 = false ∧ bit w 26 = false ∧ bit w 27 = false ∧
        long = bit w 23 ∧ signed = bit w 22 ∧ acc = bit w 21 ∧ sf = bit w 20 ∧ rh = fld w 16 4 ∧ rl = fld w 12 4 ∧
        rs = fld w 8 4 ∧ bit w 4 = true ∧ bit w 5 = false ∧ bit w 6 = false ∧ bit w 7 = true ∧ rm = fld w 0 4 := by
  rw [encodeMultiply, append_eq_iff]
  simp [append_eq_extractLsb'_iff, ofNat_eq_fld_iff, fld_eq_ofNat_iff, condBits_eq_iff, ofBool_eq_fld_one_iff, and_assoc]

theorem encodeTransfer_eq_iff {off : Offset} : encodeTransfer c p up byte wb load rn rd off = w ↔
    c = condOfBits (fld w 28 4) ∧ bit w 26 = true ∧ bit w 27 = false ∧ off.iBit = fld w 25 1 ∧ p = bit w 24 ∧ up = bit w 23 ∧
      byte = bit w 22 ∧ wb = bit w 21 ∧ load = bit w 20 ∧ rn = fld w 16 4 ∧ rd = fld w 12 4 ∧ off.bits = fld w 0 12 := by
  rw [encodeTransfer, append_eq_iff]
  simp [append_eq_extractLsb'_iff, ofNat_eq_fld_iff, fld_eq_ofNat_iff, condBits_eq_iff, ofBool_eq_fld_one_iff, and_assoc]

theorem encodeBlock_eq_iff {list : BitVec 16} : encodeBlock c p up hat wb load rn list = w ↔
    c = condOfBits (fld w 28 4) ∧ bit w 25 = false ∧ bit w 26 = false ∧ bit w 27 = true ∧ p = bit w 24 ∧ up = bit w 23 ∧
      hat = bit w 22 ∧ wb = bit w 21 ∧ load = bit w 20 ∧ rn = fld w 16 4 ∧ list = fld w 0 16 := by
  rw [encodeBlock, append_eq_iff]
  simp [append_eq_extractLsb'_iff, ofNat_eq_fld_iff, fld_eq_ofNat_iff, condBits_eq_iff, ofBool_eq_fld_one_iff, and_assoc]

theorem encode_b_eq_iff {o : BitVec 24} : encode (.b c o) = w ↔
    c = condOfBits (fld w 28 4) ∧ bit w 24 = false ∧ bit w 25 = true ∧ bit w 26 = false ∧ bit w 27 = true ∧
      o = fld w 0 24 := by
  rw [encode, append_eq_iff]
  simp [append_eq_extractLsb'_iff, ofNat_eq_fld_iff, fld_eq_ofNat_iff, condBits_eq_iff, and_assoc]

theorem encode_bl_eq_iff {o : BitVec 24} : encode (.bl c o) = w ↔
    c = condOfBits (fld w 28 4) ∧ bit w 24 = true ∧ bit w 25 = true ∧ bit w 26 = false ∧ bit w 27 = true ∧
      o = fld w 0 24 := by
  rw [encode, append_eq_iff]
  simp [append_eq_extractLsb'_iff, ofNat_eq_fld_iff, fld_eq_ofNat_iff, condBits_eq_iff, and_assoc]

theorem encode_swi_eq_iff {y : BitVec 24} : encode (.swi c y) = w ↔
    c = condOfBits (fld w 28 4) ∧ bit w 24 = true ∧ bit w 25 = true ∧ bit w 26 = true ∧ bit w 27 = true ∧
      y = fld w 0 24 := by
  rw [encode, append_eq_iff]
  simp [append_eq_extractLsb'_iff, ofNat_eq_fld_iff, fld_eq_ofNat_iff, condBits_eq_iff, and_assoc]

theorem encode_cdp_eq_iff {o : BitVec 4} {q : BitVec 3} : encode (.cdp c o crn crd cp q crm) = w ↔
    c = condOfBits (fld w 28 4) ∧ bit w 24 = false ∧ bit w 25 = true ∧ bit w 26 = true ∧ bit w 27 = true ∧ o = fld w 20 4 ∧
      crn = fld w 16 4 ∧ crd = fld w 12 4 ∧ cp = fld w 8 4 ∧ q = fld w 5 3 ∧ bit w 4 = false ∧ crm = fld w 0 4 := by
  rw [encode, append_eq_iff]
  simp [append_eq_extractLsb'_iff, ofNat_eq_fld_iff, fld_eq_ofNat_iff, condBits_eq_iff, and_assoc]

theorem encodeCoprocRegister_eq_iff {o q : BitVec 3} : encodeCoprocRegister c o load crn rd cp q crm = w ↔
    c = condOfBits (fld w 28 4) ∧ bit w 24 = false ∧ bit w 25 = true ∧ bit w 26 = true ∧ bit w 27 = true ∧ o = fld w 21 3 ∧
      load = bit w 20 ∧ crn = fld w 16 4 ∧ rd = fld w 12 4 ∧ cp = fld w 8 4 ∧ q = fld w 5 3 ∧ bit w 4 = true ∧
      crm = fld w 0 4 := by
  rw [encodeCoprocRegister, append_eq_iff]
  simp [append_eq_extractLsb'_iff, ofNat_eq_fld_iff, fld_eq_ofNat_iff, condBits_eq_iff, ofBool_eq_fld_one_iff, and_assoc]

theorem encodeCoprocTransfer_eq_iff {ix : Indexing} {o : BitVec 8} :
    encodeCoprocTransfer c ix up long load rn crd cp o = w ↔
      c = condOfBits (fld w 28 4) ∧ bit w 25 = false ∧ bit w 26 = true ∧ bit w 27 = true ∧ ix.pBit = bit w 24 ∧
        up = bit w 23 ∧ long = bit w 22 ∧ ix.wBitCoproc = bit w 21 ∧ load = bit w 20 ∧ rn = fld w 16 4 ∧ crd = fld w 12 4 ∧
        cp = fld w 8 4 ∧ o = fld w 0 8 := by
  rw [encodeCoprocTransfer, append_eq_iff]
  simp [append_eq_extractLsb'_iff, ofNat_eq_fld_iff, fld_eq_ofNat_iff, condBits_eq_iff, ofBool_eq_fld_one_iff, and_assoc]

theorem encodeSwap_eq_iff : encodeSwap c byte rn rd rm = w ↔
    c = condOfBits (fld w 28 4) ∧ bit w 23 = false ∧ bit w 24 = true ∧ bit w 25 = false ∧ bit w 26 = false ∧
      bit w 27 = false ∧ byte = bit w 22 ∧ fld w 20 2 = 0b00#2 ∧ rn = fld w 16 4 ∧ rd = fld w 12 4 ∧
      fld w 4 8 = 0b00001001#8 ∧ rm = fld w 0 4 := by
  rw [encodeSwap, append_eq_iff]
  simp [append_eq_extractLsb'_iff, ofNat_eq_fld_iff, fld_eq_ofNat_iff, condBits_eq_iff, ofBool_eq_fld_one_iff, and_assoc]

theorem encode_mrs_eq_iff {s : Bool} : encode (.mrs c s rd) = w ↔
    c = condOfBits (fld w 28 4) ∧ bit w 23 = false ∧ bit w 24 = true ∧ bit w 25 = false ∧ bit w 26 = false ∧
      bit w 27 = false ∧ s = bit w 22 ∧ fld w 16 6 = 0b001111#6 ∧ rd = fld w 12 4 ∧ fld w 0 12 = 0#12 := by
  rw [encode, append_eq_iff]
  simp [append_eq_extractLsb'_iff, ofNat_eq_fld_iff, fld_eq_ofNat_iff, condBits_eq_iff, ofBool_eq_fld_one_iff, and_assoc]

theorem encode_msrReg_eq_iff {s : Bool} {part : PsrPart} : encode (.msrReg c s part rm) = w ↔
    c = condOfBits (fld w 28 4) ∧ bit w 23 = false ∧ bit w 24 = true ∧ bit w 25 = false ∧ bit w 26 = false ∧
      bit w 27 = false ∧ s = bit w 22 ∧ fld w 20 2 = 0b10#2 ∧ psrPartOfBits (fld w 16 4) = some part ∧
      fld w 4 12 = 0b111100000000#12 ∧ rm = fld w 0 4 := by
  rw [encode, append_eq_iff]
  simp [append_eq_extractLsb'_iff, ofNat_eq_fld_iff, fld_eq_ofNat_iff, condBits_eq_iff, psrPartBits_eq_iff,
    ofBool_eq_fld_one_iff, and_assoc]

theorem encode_msrImm_eq_iff {s : Bool} {part : PsrPart} {r : BitVec 4} {b : BitVec 8} : encode (.msrImm c s part r b) = w ↔
    c = condOfBits (fld w 28 4) ∧ bit w 23 = false ∧ bit w 24 = true ∧ bit w 25 = true ∧ bit w 26 = false ∧
      bit w 27 = false ∧ s = bit w 22 ∧ fld w 20 2 = 0b10#2 ∧ psrPartOfBits (fld w 16 4) = some part ∧
      fld w 12 4 = 0b1111#4 ∧ r = fld w 8 4 ∧ b = fld w 0 8 := by
  rw [encode, append_eq_iff]
  simp [append_eq_extractLsb'_iff, ofNat_eq_fld_iff, fld_eq_ofNat_iff, condBits_eq_iff, psrPartBits_eq_iff,
    ofBool_eq_fld_one_iff, and_assoc]

end Formats

/-! ### Patterns -/

section Patterns
variable {v : Variant} {w : Word}

theorem hasSwp_iff : v.hasSwp = true ↔ v ≠ .arm2 := by cases v <;> decide

theorem hasLongMultiply_iff : v.hasLongMultiply = true ↔ v = .arm7dm := by cases v <;> decide

theorem msrPartPattern_iff : msrPartPattern w = true ↔ psrPartOfBits (fld w 16 4) ≠ none := by
  unfold msrPartPattern fld
  generalize BitVec.extractLsb' 16 4 w = x
  revert x
  decide

theorem swpPattern_iff : swpPattern w = true ↔
    fld w 23 5 = 0b00010#5 ∧ fld w 20 2 = 0b00#2 ∧ fld w 8 4 = 0b0000#4 ∧ fld w 4 4 = 0b1001#4 := by
  simp [swpPattern, and_assoc]

theorem statusTransferPattern_iff : statusTransferPattern w = true ↔
    (fld w 23 5 = 0b00010#5 ∧ fld w 20 2 = 0b10#2 ∧ psrPartOfBits (fld w 16 4) ≠ none ∧ fld w 4 12 = 0b111100000000#12) ∨
    (fld w 23 5 = 0b00110#5 ∧ fld w 20 2 = 0b10#2 ∧ psrPartOfBits (fld w 16 4) ≠ none ∧ fld w 12 4 = 0b1111#4) ∨
    (fld w 23 5 = 0b00010#5 ∧ fld w 16 6 = 0b001111#6 ∧ fld w 0 12 = 0#12) := by
  simp [statusTransferPattern, ← msrPartPattern_iff, and_assoc, or_assoc]

/-- The two patterns of 30_encoding.md R116. -/
theorem undefinedPattern_iff : undefinedPattern v w = true ↔
    (v = .arm2 ∧ fld w 24 4 = 0b0001#4 ∧ bit w 7 = true ∧ bit w 4 = true) ∨ (fld w 25 3 = 0b011#3 ∧ bit w 4 = true) := by
  simp [undefinedPattern, and_assoc]

/-- The spaces U1 to U6 of 30_encoding.md R118. -/
theorem unallocatedPattern_iff : unallocatedPattern v w = true ↔
    (fld w 24 4 = 0b0000#4 ∧ bit w 7 = true ∧ bit w 4 = true ∧ fld w 5 2 ≠ 0b00#2) ∨
    (fld w 22 6 = 0b000001#6 ∧ fld w 4 4 = 0b1001#4) ∨
    (fld w 23 5 = 0b00001#5 ∧ fld w 4 4 = 0b1001#4 ∧ v ≠ .arm7dm) ∨
    (fld w 24 4 = 0b0001#4 ∧ bit w 7 = true ∧ bit w 4 = true ∧ v ≠ .arm2 ∧ swpPattern w = false) ∨
    (fld w 26 2 = 0b00#2 ∧ fld w 23 2 = 0b10#2 ∧ bit w 20 = false ∧
      ¬ (bit w 25 = false ∧ bit w 7 = true ∧ bit w 4 = true) ∧
      ¬ (v.isArm6Plus = true ∧ statusTransferPattern w = true)) ∨
    (fld w 25 3 = 0b110#3 ∧ bit w 24 = false ∧ bit w 21 = false) := by
  have hlong : v.hasLongMultiply = false ↔ v ≠ .arm7dm := by cases v <;> decide
  simp [unallocatedPattern, and_assoc, or_assoc, hlong, imp_iff_not_or]

end Patterns

end Sys2Proof
end

section
/-! Decoding the word of each format (30_encoding.md R117). Where a format serves many instructions, a constructor function
says which of them its operands make: the decoder applies it to the fields of the word, the encoder undoes it. -/

namespace Sys2Proof

/-- `i` is an instruction of processor `v`, and `w` is its word. -/
def StandsFor (v : Variant) (w : Word) (i : Instr) : Prop := WellFormed v i = true ∧ encode i = w

/-! ### The classes, bits 27..25 -/

theorem decode_eq (v : Variant) (w : Word) : decode v w =
    if bit w 27 then
      if bit w 26 then (if bit w 25 then decodeClass111 w else decodeCoprocTransfer w)
      else if bit w 25 then
        (if bit w 24 then .bl (condOfBits (fld w 28 4)) (fld w 0 24) else .b (condOfBits (fld w 28 4)) (fld w 0 24))
      else decodeBlock w
    else
      if bit w 26 then
        (if bit w 25 = true ∧ bit w 4 = true then .undefined w else decodeTransfer w (decodeOffset w))
      else if bit w 25 then decodeClass001 v w else decodeClass000 v w := by
  have hclass : (fld w 25 3).toNat = 4 * (bit w 27).toNat + 2 * (bit w 26).toNat + (bit w 25).toNat := by
    have hparts : BitVec.ofBool (bit w 27) ++ BitVec.ofBool (bit w 26) ++ BitVec.ofBool (bit w 25) = fld w 25 3 := by
      simp only [append_eq_extractLsb'_iff, ofBool_eq_fld_one_iff, and_self]
    rw [← hparts]
    cases bit w 27 <;> cases bit w 26 <;> cases bit w 25 <;> rfl
  unfold decode decodeOffset
  rw [hclass]
  cases bit w 27 <;> cases bit w 26 <;> cases bit w 25 <;> cases bit w 4 <;> rfl

section Class
variable {v : Variant} {w : Word}

theorem decode_of_class_000 (h25 : bit w 25 = false) (h26 : bit w 26 = false) (h27 : bit w 27 = false) :
    decode v w = decodeClass000 v w := by simp only [decode_eq, h25, h26, h27, Bool.false_eq_true, if_false]

theorem decode_of_class_001 (h25 : bit w 25 = true) (h26 : bit w 26 = false) (h27 : bit w 27 = false) :
    decode v w = decodeClass001 v w := by simp only [decode_eq, h25, h26, h27, Bool.false_eq_true, if_false, if_true]

theorem decode_of_class_01x (h26 : bit w 26 = true) (h27 : bit w 27 = false) (hform : bit w 25 = true → bit w 4 = false) :
    decode v w = decodeTransfer w (decodeOffset w) := by
  have hdefined : ¬ (bit w 25 = true ∧ bit w 4 = true) := fun ⟨h25, h4⟩ => Bool.false_ne_true ((hform h25).symm.trans h4)
  simp only [decode_eq, h26, h27, if_neg hdefined, Bool.false_eq_true, if_false, if_true]

theorem decode_of_class_011 (h25 : bit w 25 = true) (h26 : bit w 26 = true) (h27 : bit w 27 = false) (h4 : bit w 4 = true) :
    decode v w = .undefined w := by
  simp only [decode_eq, h25, h26, h27, h4, Bool.false_eq_true, if_false, and_self, if_true]

theorem decode_of_class_100 (h25 : bit w 25 = false) (h26 : bit w 26 = false) (h27 : bit w 27 = true) :
    decode v w = decodeBlock w := by simp only [decode_eq, h25, h26, h27, Bool.false_eq_true, if_false, if_true]

theorem decode_of_class_101 (h25 : bit w 25 = true) (h26 : bit w 26 = false) (h27 : bit w 27 = true) : decode v w =
    if bit w 24 then .bl (condOfBits (fld w 28 4)) (fld w 0 24) else .b (condOfBits (fld w 28 4)) (fld w 0 24) := by
  simp only [decode_eq, h25, h26, h27, Bool.false_eq_true, if_false, if_true]

theorem decode_of_class_110 (h25 : bit w 25 = false) (h26 : bit w 26 = true) (h27 : bit w 27 = true) :
    decode v w = decodeCoprocTransfer w := by simp only [decode_eq, h25, h26, h27, Bool.false_eq_true, if_false, if_true]

theorem decode_of_class_111 (h25 : bit w 25 = true) (h26 : bit w 26 = true) (h27 : bit w 27 = true) :
    decode v w = decodeClass111 w := by simp only [decode_eq, h25, h26, h27, if_true]

end Class

/-! ### Data processing -/

section DataProc
variable {v : Variant} {c : Cond} {op : BitVec 4} {sf : Bool} {rn rd : RegNum} {op2 : Op2}

/-- The instruction of opcode `op` (41_data_processing.md R160, R190). -/
def dataProcInstr (c : Cond) (op : BitVec 4) (sf : Bool) (rn rd : RegNum) (op2 : Op2) : Instr :=
  match op.toNat with
  | 0 => .and c sf rd rn op2
  | 1 => .eor c sf rd rn op2
  | 2 => .sub c sf rd rn op2
  | 3 => .rsb c sf rd rn op2
  | 4 => .add c sf rd rn op2
  | 5 => .adc c sf rd rn op2
  | 6 => .sbc c sf rd rn op2
  | 7 => .rsc c sf rd rn op2
  | 8 => if rd = 15#4 then .tstp c rn op2 else .tst c rd rn op2
  | 9 => if rd = 15#4 then .teqp c rn op2 else .teq c rd rn op2
  | 10 => if rd = 15#4 then .cmpp c rn op2 else .cmp c rd rn op2
  | 11 => if rd = 15#4 then .cmnp c rn op2 else .cmn c rd rn op2
  | 12 => .orr c sf rd rn op2
  | 13 => .mov c sf rd rn op2
  | 14 => .bic c sf rd rn op2
  | _ => .mvn c sf rd rn op2

theorem decodeDataProc_eq (w : Word) (op2 : Op2) : decodeDataProc w op2 =
    dataProcInstr (condOfBits (fld w 28 4)) (fld w 21 4) (bit w 20) (fld w 16 4) (fld w 12 4) op2 := rfl

/-- The opcodes 10xx come with S set (30_encoding.md R117). -/
def TestHasS (op : BitVec 4) (sf : Bool) : Prop := op.getLsbD 2 = false → op.getLsbD 3 = true → sf = true

theorem testHasS_true (op : BitVec 4) : TestHasS op true := fun _ _ => rfl

theorem testHasS_of_not_test (h : ¬ (op.getLsbD 2 = false ∧ op.getLsbD 3 = true)) : TestHasS op sf :=
  fun h2 h3 => absurd ⟨h2, h3⟩ h

theorem testHasS_iff {w : Word} : TestHasS (fld w 21 4) (bit w 20) ↔ ¬ (fld w 23 2 = 0b10#2 ∧ bit w 20 = false) := by
  simp [TestHasS, fld_eq_ofNat_iff]

theorem opcode_cases (op : BitVec 4) : op = 0#4 ∨ op = 1#4 ∨ op = 2#4 ∨ op = 3#4 ∨ op = 4#4 ∨ op = 5#4 ∨ op = 6#4 ∨
    op = 7#4 ∨ op = 8#4 ∨ op = 9#4 ∨ op = 10#4 ∨ op = 11#4 ∨ op = 12#4 ∨ op = 13#4 ∨ op = 14#4 ∨ op = 15#4 := by
  revert op
  decide

theorem dataProcInstr_standsFor (hS : TestHasS op sf) :
    StandsFor v (encodeDataProc c op sf rn rd op2) (dataProcInstr c op sf rn rd op2) := by
  unfold StandsFor TestHasS at *
  by_cases hrd : rd = 15#4 <;>
    rcases opcode_cases op with
      rfl | rfl | rfl | rfl | rfl | rfl | rfl | rfl | rfl | rfl | rfl | rfl | rfl | rfl | rfl | rfl <;>
    simp_all [dataProcInstr, WellFormed, encode]

theorem decode_encodeDataProc (hS : TestHasS op sf) :
    decode v (encodeDataProc c op sf rn rd op2) = dataProcInstr c op sf rn rd op2 := by
  generalize hw : encodeDataProc c op sf rn rd op2 = w
  obtain ⟨rfl, h26, h27, hi, rfl, rfl, rfl, rfl, hbits⟩ := encodeDataProc_eq_iff.mp hw
  obtain ⟨rfl, hform⟩ := op2_eq_iff.mp ⟨hi, hbits⟩
  rw [← decodeDataProc_eq]
  cases h25 : bit w 25 with
  | false =>
    have hreg : ¬ (bit w 7 = true ∧ bit w 4 = true) := by
      rintro ⟨h7, h4⟩
      simp only [h25, h7, h4, Bool.false_eq_true, Bool.true_eq_false, or_self] at hform
    rw [decode_of_class_000 h25 h26 h27, decodeClass000, if_neg (testHasS_iff.mp hS), if_neg hreg, decodeOp2, h25]
    rfl
  | true => rw [decode_of_class_001 h25 h26 h27, decodeClass001, if_neg (testHasS_iff.mp hS), decodeOp2, h25, if_pos rfl]

end DataProc

/-! ### Multiplies and swaps -/

section Multiply
variable {v : Variant} {c : Cond} {long signed acc sf byte : Bool} {rh rl rs rm rn rd : RegNum}

/-- The instruction of bits 23..21 of a multiply (30_encoding.md R105, R106). -/
def multiplyInstr (c : Cond) (long signed acc sf : Bool) (rh rl rs rm : RegNum) : Instr :=
  if long then
    if signed then (if acc then .smlal c sf rh rl rs rm else .smull c sf rh rl rs rm)
    else (if acc then .umlal c sf rh rl rs rm else .umull c sf rh rl rs rm)
  else (if acc then .mla c sf rh rl rs rm else .mul c sf rh rl rs rm)

theorem multiplyInstr_standsFor (hshort : long = false → signed = false) (hlong : long = true → v.hasLongMultiply = true) :
    StandsFor v (encodeMultiply c (BitVec.ofBool long ++ BitVec.ofBool signed ++ BitVec.ofBool acc) sf rh rl rs rm)
      (multiplyInstr c long signed acc sf rh rl rs rm) := by
  cases long <;> cases signed <;> cases acc <;> simp_all [multiplyInstr, StandsFor, WellFormed, encode]

theorem decodeExtension_of_multiply {w : Word} (h4 : fld w 4 4 = 0b1001#4) (h24 : fld w 24 4 = 0b0000#4)
    (hshort : bit w 23 = false → bit w 22 = false) (hlong : bit w 23 = true → v.hasLongMultiply = true) :
    decodeExtension v w = multiplyInstr (condOfBits (fld w 28 4)) (bit w 23) (bit w 22) (bit w 21) (bit w 20)
      (fld w 16 4) (fld w 12 4) (fld w 8 4) (fld w 0 4) := by
  unfold decodeExtension multiplyInstr
  cases h23 : bit w 23 <;> simp_all [fld_eq_ofNat_iff]

theorem decode_encodeMultiply (hshort : long = false → signed = false) (hlong : long = true → v.hasLongMultiply = true) :
    decode v (encodeMultiply c (BitVec.ofBool long ++ BitVec.ofBool signed ++ BitVec.ofBool acc) sf rh rl rs rm) =
      multiplyInstr c long signed acc sf rh rl rs rm := by
  generalize hw : encodeMultiply _ _ _ _ _ _ _ = w
  obtain ⟨rfl, h24, h25, h26, h27, rfl, rfl, rfl, rfl, rfl, rfl, rfl, h4, h5, h6, h7, rfl⟩ := encodeMultiply_eq_iff.mp hw
  have hlow : fld w 4 4 = 0b1001#4 := by
    simp only [fld_eq_ofNat_iff]; exact ⟨h4, h5, h6, h7, Subsingleton.elim _ _⟩
  have htop : fld w 24 4 = 0b0000#4 := by
    simp only [fld_eq_ofNat_iff]; exact ⟨h24, h25, h26, h27, Subsingleton.elim _ _⟩
  rw [decode_of_class_000 h25 h26 h27, decodeClass000, if_pos ⟨h7, h4⟩, decodeExtension_of_multiply hlow htop hshort hlong]

theorem decode_encodeSwap (hv : v.hasSwp = true) :
    decode v (encodeSwap c byte rn rd rm) = if byte then .swpb c rn rd rm else .swp c rn rd rm := by
  generalize hw : encodeSwap c byte rn rd rm = w
  obtain ⟨rfl, h23, h24, h25, h26, h27, rfl, h20, rfl, rfl, h4, rfl⟩ := encodeSwap_eq_iff.mp hw
  clear hw
  rw [decode_of_class_000 h25 h26 h27, decodeClass000, decodeExtension]
  simp_all [fld_eq_ofNat_iff]

end Multiply

/-! ### Transfers -/

section Transfer
variable {v : Variant} {c : Cond} {p up byte hat wb load : Bool} {rn rd : RegNum} {off : Offset} {list : BitVec 16}

/-- The instruction of the P, U, B, W and L bits of a single data transfer (30_encoding.md R107). -/
def transferInstr (c : Cond) (p up byte wb load : Bool) (rn rd : RegNum) (off : Offset) : Instr :=
  if p = false ∧ wb then
    if load then (if byte then .ldrbt c up rn rd off else .ldrt c up rn rd off)
    else (if byte then .strbt c up rn rd off else .strt c up rn rd off)
  else
    if load then (if byte then .ldrb c (indexingOfBits p wb) up rn rd off else .ldr c (indexingOfBits p wb) up rn rd off)
    else (if byte then .strb c (indexingOfBits p wb) up rn rd off else .str c (indexingOfBits p wb) up rn rd off)

theorem decodeTransfer_eq (w : Word) (off : Offset) : decodeTransfer w off =
    transferInstr (condOfBits (fld w 28 4)) (bit w 24) (bit w 23) (bit w 22) (bit w 21) (bit w 20)
      (fld w 16 4) (fld w 12 4) off := rfl

theorem transferInstr_standsFor :
    StandsFor v (encodeTransfer c p up byte wb load rn rd off) (transferInstr c p up byte wb load rn rd off) := by
  cases p <;> cases wb <;> cases load <;> cases byte <;> exact ⟨rfl, rfl⟩

theorem decode_encodeTransfer :
    decode v (encodeTransfer c p up byte wb load rn rd off) = transferInstr c p up byte wb load rn rd off := by
  generalize hw : encodeTransfer c p up byte wb load rn rd off = w
  obtain ⟨rfl, h26, h27, hi, rfl, rfl, rfl, rfl, rfl, rfl, rfl, hbits⟩ := encodeTransfer_eq_iff.mp hw
  obtain ⟨rfl, hform⟩ := offset_eq_iff.mp ⟨hi, hbits⟩
  rw [decode_of_class_01x h26 h27 hform, decodeTransfer_eq]

/-- The instruction of the P, U, S, W and L bits of a block data transfer (30_encoding.md R108, R131). -/
def blockInstr (c : Cond) (p up hat wb load : Bool) (rn : RegNum) (list : BitVec 16) : Instr :=
  if load then
    if p then (if up then .ldmib c hat wb rn list else .ldmdb c hat wb rn list)
    else (if up then .ldmia c hat wb rn list else .ldmda c hat wb rn list)
  else
    if p then (if up then .stmib c hat wb rn list else .stmdb c hat wb rn list)
    else (if up then .stmia c hat wb rn list else .stmda c hat wb rn list)

theorem decodeBlock_eq (w : Word) : decodeBlock w =
    blockInstr (condOfBits (fld w 28 4)) (bit w 24) (bit w 23) (bit w 22) (bit w 21) (bit w 20) (fld w 16 4) (fld w 0 16) := rfl

theorem blockInstr_standsFor :
    StandsFor v (encodeBlock c p up hat wb load rn list) (blockInstr c p up hat wb load rn list) := by
  cases load <;> cases p <;> cases up <;> exact ⟨rfl, rfl⟩

theorem decode_encodeBlock :
    decode v (encodeBlock c p up hat wb load rn list) = blockInstr c p up hat wb load rn list := by
  generalize hw : encodeBlock c p up hat wb load rn list = w
  obtain ⟨rfl, h25, h26, h27, rfl, rfl, rfl, rfl, rfl, rfl, rfl⟩ := encodeBlock_eq_iff.mp hw
  rw [decode_of_class_100 h25 h26 h27, decodeBlock_eq]

end Transfer

/-! ### Branches, SWI and coprocessor instructions -/

section Branch
variable {v : Variant} {c : Cond} {up long load : Bool} {rn rd crn crd crm cp : RegNum}

theorem decode_encode_b {o : BitVec 24} : decode v (encode (.b c o)) = .b c o := by
  generalize hw : encode (.b c o) = w
  obtain ⟨rfl, h24, h25, h26, h27, rfl⟩ := encode_b_eq_iff.mp hw
  rw [decode_of_class_101 h25 h26 h27, h24, if_neg Bool.false_ne_true]

theorem decode_encode_bl {o : BitVec 24} : decode v (encode (.bl c o)) = .bl c o := by
  generalize hw : encode (.bl c o) = w
  obtain ⟨rfl, h24, h25, h26, h27, rfl⟩ := encode_bl_eq_iff.mp hw
  rw [decode_of_class_101 h25 h26 h27, if_pos h24]

theorem decode_encode_swi {y : BitVec 24} : decode v (encode (.swi c y)) = .swi c y := by
  generalize hw : encode (.swi c y) = w
  obtain ⟨rfl, h24, h25, h26, h27, rfl⟩ := encode_swi_eq_iff.mp hw
  rw [decode_of_class_111 h25 h26 h27, decodeClass111, if_pos h24]

theorem decode_encode_cdp {o : BitVec 4} {q : BitVec 3} :
    decode v (encode (.cdp c o crn crd cp q crm)) = .cdp c o crn crd cp q crm := by
  generalize hw : encode (.cdp c o crn crd cp q crm) = w
  obtain ⟨rfl, h24, h25, h26, h27, rfl, rfl, rfl, rfl, rfl, h4, rfl⟩ := encode_cdp_eq_iff.mp hw
  rw [decode_of_class_111 h25 h26 h27, decodeClass111, h24, h4, if_neg Bool.false_ne_true, if_neg Bool.false_ne_true]

theorem decode_encodeCoprocRegister {o q : BitVec 3} : decode v (encodeCoprocRegister c o load crn rd cp q crm) =
    if load then .mrc c o crn rd cp q crm else .mcr c o crn rd cp q crm := by
  generalize hw : encodeCoprocRegister c o load crn rd cp q crm = w
  obtain ⟨rfl, h24, h25, h26, h27, rfl, rfl, rfl, rfl, rfl, rfl, h4, rfl⟩ := encodeCoprocRegister_eq_iff.mp hw
  rw [decode_of_class_111 h25 h26 h27, decodeClass111, h24, if_neg Bool.false_ne_true, if_pos h4]

theorem decode_encodeCoprocTransfer {ix : Indexing} {o : BitVec 8} :
    decode v (encodeCoprocTransfer c ix up long load rn crd cp o) =
      if load then .ldc c ix up long rn crd cp o else .stc c ix up long rn crd cp o := by
  generalize hw : encodeCoprocTransfer c ix up long load rn crd cp o = w
  obtain ⟨rfl, h25, h26, h27, hp, rfl, rfl, hwb, rfl, rfl, rfl, rfl, rfl⟩ := encodeCoprocTransfer_eq_iff.mp hw
  obtain ⟨rfl, hform⟩ := indexingCoproc_eq_iff.mp ⟨hp, hwb⟩
  rw [decode_of_class_110 h25 h26 h27, decodeCoprocTransfer, if_neg]
  rintro ⟨h24, h21⟩
  simp only [h24, h21, Bool.false_eq_true, or_self] at hform

end Branch

/-! ### Status transfers -/

section StatusTransfer
variable {v : Variant} {c : Cond} {s : Bool} {part : PsrPart} {rd rm : RegNum}

theorem decode_encode_mrs (hv : v.isArm6Plus = true) : decode v (encode (.mrs c s rd)) = .mrs c s rd := by
  generalize hw : encode (.mrs c s rd) = w
  obtain ⟨rfl, h23, h24, h25, h26, h27, rfl, h16, rfl, h0⟩ := encode_mrs_eq_iff.mp hw
  clear hw
  rw [decode_of_class_000 h25 h26 h27, decodeClass000]
  simp_all [fld_eq_ofNat_iff]

theorem decode_encode_msrReg (hv : v.isArm6Plus = true) :
    decode v (encode (.msrReg c s part rm)) = .msrReg c s part rm := by
  generalize hw : encode (.msrReg c s part rm) = w
  obtain ⟨rfl, h23, h24, h25, h26, h27, rfl, h20, hpart, h4, rfl⟩ := encode_msrReg_eq_iff.mp hw
  clear hw
  rw [decode_of_class_000 h25 h26 h27, decodeClass000]
  simp_all [fld_eq_ofNat_iff]

theorem decode_encode_msrImm {r : BitVec 4} {b : BitVec 8} (hv : v.isArm6Plus = true) :
    decode v (encode (.msrImm c s part r b)) = .msrImm c s part r b := by
  generalize hw : encode (.msrImm c s part r b) = w
  obtain ⟨rfl, h23, h24, h25, h26, h27, rfl, h20, hpart, h12, rfl, rfl⟩ := encode_msrImm_eq_iff.mp hw
  clear hw
  rw [decode_of_class_001 h25 h26 h27, decodeClass001]
  simp_all [fld_eq_ofNat_iff]

end StatusTransfer

/-! ### Undefined and unallocated words -/

section NoInstruction
variable {v : Variant} {w : Word}

theorem decodeExtension_undefined (hv : v = .arm2) (h24 : fld w 24 4 = 0b0001#4) : decodeExtension v w = .undefined w := by
  unfold decodeExtension
  simp_all [fld_eq_ofNat_iff, Variant.hasSwp]

theorem decode_undefined (h : undefinedPattern v w = true) : decode v w = .undefined w := by
  rcases undefinedPattern_iff.mp h with ⟨hv, htop, h7, h4⟩ | ⟨hclass, h4⟩
  · have hext := decodeExtension_undefined hv htop
    simp only [fld_eq_ofNat_iff] at htop
    obtain ⟨-, h25, h26, h27, -⟩ := htop
    rw [decode_of_class_000 h25 h26 h27, decodeClass000, if_pos ⟨h7, h4⟩, hext]
  · simp only [fld_eq_ofNat_iff] at hclass
    obtain ⟨h25, h26, h27, -⟩ := hclass
    exact decode_of_class_011 h25 h26 h27 h4

/-- U1 to U4: in each, the tests of the tree for a multiply and a swap fail on some bit of the pattern or on the processor. -/
theorem decodeExtension_unallocated (h25 : bit w 25 = false) (h26 : bit w 26 = false) (h27 : bit w 27 = false)
    (h7 : bit w 7 = true) (h4 : bit w 4 = true) (h : unallocatedPattern v w = true) :
    decodeExtension v w = .unallocated w := by
  unfold decodeExtension
  simp only [unallocatedPattern_iff, ne_eq, ← Bool.not_eq_true, swpPattern_iff, hasSwp_iff, hasLongMultiply_iff,
    fld_eq_ofNat_iff] at *
  grind

/-- U1 to U4 and the part of U5 with bit 25 clear. -/
theorem decodeClass000_unallocated (h25 : bit w 25 = false) (h26 : bit w 26 = false) (h27 : bit w 27 = false)
    (h : unallocatedPattern v w = true) : decodeClass000 v w = .unallocated w := by
  rw [decodeClass000]
  by_cases hext : bit w 7 = true ∧ bit w 4 = true
  · obtain ⟨h7, h4⟩ := hext
    rw [if_pos ⟨h7, h4⟩, decodeExtension_unallocated h25 h26 h27 h7 h4 h]
  · rw [if_neg hext]
    simp only [unallocatedPattern_iff, ne_eq, ← Bool.not_eq_true, statusTransferPattern_iff, fld_eq_ofNat_iff] at *
    grind

/-- The part of U5 with bit 25 set. -/
theorem decodeClass001_unallocated (h25 : bit w 25 = true) (h26 : bit w 26 = false) (h27 : bit w 27 = false)
    (h : unallocatedPattern v w = true) : decodeClass001 v w = .unallocated w := by
  unfold decodeClass001
  simp only [unallocatedPattern_iff, ne_eq, ← Bool.not_eq_true, statusTransferPattern_iff, fld_eq_ofNat_iff] at *
  grind

/-- U1 to U5 lie in class 00x, U6 in class 110. -/
theorem unallocatedPattern_class (h : unallocatedPattern v w = true) :
    (bit w 26 = false ∧ bit w 27 = false) ∨
      (bit w 25 = false ∧ bit w 26 = true ∧ bit w 27 = true ∧ bit w 24 = false ∧ bit w 21 = false) := by
  simp only [unallocatedPattern_iff, fld_eq_ofNat_iff] at h
  grind

theorem decode_unallocated (h : unallocatedPattern v w = true) : decode v w = .unallocated w := by
  rcases unallocatedPattern_class h with ⟨h26, h27⟩ | ⟨h25, h26, h27, h24, h21⟩
  · cases h25 : bit w 25 with
    | false => rw [decode_of_class_000 h25 h26 h27, decodeClass000_unallocated h25 h26 h27 h]
    | true => rw [decode_of_class_001 h25 h26 h27, decodeClass001_unallocated h25 h26 h27 h]
  · rw [decode_of_class_110 h25 h26 h27, decodeCoprocTransfer, if_pos ⟨h24, h21⟩]

end NoInstruction

/-- Every operand of every instruction survives its encoding: the word is of the instruction's format, and the decoder reads
the operands back. -/
theorem decode_encode {v : Variant} {i : Instr} (hwf : WellFormed v i = true) : decode v (encode i) = i := by
  cases i with
  | and | eor | sub | rsb | add | adc | sbc | rsc | orr | mov | bic | mvn =>
    exact decode_encodeDataProc (testHasS_of_not_test (by decide))
  | tst | teq | cmp | cmn => exact (decode_encodeDataProc (testHasS_true _)).trans (if_neg (bne_iff_ne.mp hwf))
  | tstp | teqp | cmpp | cmnp => exact decode_encodeDataProc (testHasS_true _)
  | b => exact decode_encode_b
  | bl => exact decode_encode_bl
  | mul => exact decode_encodeMultiply (long := false) (signed := false) (acc := false) (fun _ => rfl) nofun
  | mla => exact decode_encodeMultiply (long := false) (signed := false) (acc := true) (fun _ => rfl) nofun
  | umull => exact decode_encodeMultiply (long := true) (signed := false) (acc := false) nofun fun _ => hwf
  | umlal => exact decode_encodeMultiply (long := true) (signed := false) (acc := true) nofun fun _ => hwf
  | smull => exact decode_encodeMultiply (long := true) (signed := true) (acc := false) nofun fun _ => hwf
  | smlal => exact decode_encodeMultiply (long := true) (signed := true) (acc := true) nofun fun _ => hwf
  | ldr _ ix | ldrb _ ix | str _ ix | strb _ ix => cases ix <;> exact decode_encodeTransfer
  | ldrt | ldrbt | strt | strbt => exact decode_encodeTransfer
  | ldmia | ldmib | ldmda | ldmdb | stmia | stmib | stmda | stmdb => exact decode_encodeBlock
  | swi => exact decode_encode_swi
  | cdp => exact decode_encode_cdp
  | ldc | stc => exact decode_encodeCoprocTransfer
  | mcr | mrc => exact decode_encodeCoprocRegister
  | swp | swpb => exact decode_encodeSwap hwf
  | mrs => exact decode_encode_mrs hwf
  | msrReg => exact decode_encode_msrReg hwf
  | msrImm => exact decode_encode_msrImm hwf
  | undefined => exact decode_undefined hwf
  | unallocated => exact decode_unallocated hwf

end Sys2Proof
end

section
/-! Every word stands for an instruction of every processor, class by class; with `decode_encode` it is the one the decoder
gives (30_encoding.md R117, "every 32-bit word reaches exactly one leaf"). -/

namespace Sys2Proof

section Words
variable {v : Variant} {w : Word}

theorem standsFor_undefined (h : undefinedPattern v w = true) : StandsFor v w (.undefined w) := ⟨h, rfl⟩

theorem standsFor_unallocated (h : unallocatedPattern v w = true) : StandsFor v w (.unallocated w) := ⟨h, rfl⟩

theorem exists_standsFor_dataProc (h26 : bit w 26 = false) (h27 : bit w 27 = false)
    (hform : bit w 25 = true ∨ bit w 7 = false ∨ bit w 4 = false) (hS : ¬ (fld w 23 2 = 0b10#2 ∧ bit w 20 = false)) :
    ∃ i, StandsFor v w i := by
  obtain ⟨hi, hbits⟩ := op2_eq_iff.mpr ⟨rfl, hform⟩
  rw [← encodeDataProc_eq_iff.mpr ⟨rfl, h26, h27, hi, rfl, rfl, rfl, rfl, hbits⟩]
  exact ⟨_, dataProcInstr_standsFor (testHasS_iff.mpr hS)⟩

theorem exists_standsFor_multiply (htop : fld w 24 4 = 0b0000#4) (hlow : fld w 4 4 = 0b1001#4)
    (hshort : bit w 23 = false → bit w 22 = false) (hlong : bit w 23 = true → v.hasLongMultiply = true) :
    ∃ i, StandsFor v w i := by
  simp only [fld_eq_ofNat_iff] at htop hlow
  obtain ⟨h24, h25, h26, h27, -⟩ := htop
  obtain ⟨h4, h5, h6, h7, -⟩ := hlow
  rw [← encodeMultiply_eq_iff.mpr ⟨rfl, h24, h25, h26, h27, rfl, rfl, rfl, rfl, rfl, rfl, rfl, h4, h5, h6, h7, rfl⟩]
  exact ⟨_, multiplyInstr_standsFor hshort hlong⟩

theorem exists_standsFor_swap (hv : v.hasSwp = true) (h : swpPattern w = true) : ∃ i, StandsFor v w i := by
  simp only [swpPattern_iff, fld_eq_ofNat_iff] at h
  obtain ⟨⟨h23, h24, h25, h26, h27, -⟩, ⟨h20, h21, -⟩, ⟨h8, h9, h10, h11, -⟩, h4, h5, h6, h7, -⟩ := h
  have hfixed : fld w 20 2 = 0b00#2 ∧ fld w 4 8 = 0b00001001#8 := by
    simp only [fld_eq_ofNat_iff]
    exact ⟨⟨h20, h21, Subsingleton.elim _ _⟩, h4, h5, h6, h7, h8, h9, h10, h11, Subsingleton.elim _ _⟩
  have hword := encodeSwap_eq_iff.mpr ⟨rfl, h23, h24, h25, h26, h27, rfl, hfixed.1, rfl, rfl, hfixed.2, rfl⟩
  cases h22 : bit w 22 with
  | false => exact ⟨.swp _ _ _ _, hv, by rw [encode, ← h22, hword]⟩
  | true => exact ⟨.swpb _ _ _ _, hv, by rw [encode, ← h22, hword]⟩

theorem exists_standsFor_statusTransfer (hv : v.isArm6Plus = true) (h : statusTransferPattern w = true) :
    ∃ i, StandsFor v w i := by
  rcases statusTransferPattern_iff.mp h with ⟨htop, h20, hpart, h4⟩ | ⟨htop, h20, hpart, h12⟩ | ⟨htop, h16, h0⟩
  all_goals
    simp only [fld_eq_ofNat_iff] at htop
    obtain ⟨h23, h24, h25, h26, h27, -⟩ := htop
  · obtain ⟨part, hpart⟩ := Option.ne_none_iff_exists'.mp hpart
    exact ⟨.msrReg _ _ part _, hv, encode_msrReg_eq_iff.mpr ⟨rfl, h23, h24, h25, h26, h27, rfl, h20, hpart, h4, rfl⟩⟩
  · obtain ⟨part, hpart⟩ := Option.ne_none_iff_exists'.mp hpart
    exact ⟨.msrImm _ _ part _ _, hv,
      encode_msrImm_eq_iff.mpr ⟨rfl, h23, h24, h25, h26, h27, rfl, h20, hpart, h12, rfl, rfl⟩⟩
  · exact ⟨.mrs _ _ _, hv, encode_mrs_eq_iff.mpr ⟨rfl, h23, h24, h25, h26, h27, rfl, h16, rfl, h0⟩⟩

/-- The words of class 000 with bits 7 and 4 set, which are not data processing (30_encoding.md R117): U1 to U4, the ARM 2
trap, the swaps and the multiplies. -/
theorem extension_cases (h25 : bit w 25 = false) (h26 : bit w 26 = false) (h27 : bit w 27 = false)
    (h7 : bit w 7 = true) (h4 : bit w 4 = true) :
    unallocatedPattern v w = true ∨ undefinedPattern v w = true ∨ (v.hasSwp = true ∧ swpPattern w = true) ∨
      (fld w 24 4 = 0b0000#4 ∧ fld w 4 4 = 0b1001#4 ∧ (bit w 23 = false → bit w 22 = false) ∧
        (bit w 23 = true → v.hasLongMultiply = true)) := by
  cases h24 : bit w 24 with
  | true =>
    have htop : fld w 24 4 = 0b0001#4 := by
      simp only [fld_eq_ofNat_iff]; exact ⟨h24, h25, h26, h27, Subsingleton.elim _ _⟩
    by_cases hv : v = .arm2
    · exact .inr (.inl (undefinedPattern_iff.mpr (.inl ⟨hv, htop, h7, h4⟩)))
    · cases hswp : swpPattern w with
      | true => exact .inr (.inr (.inl ⟨hasSwp_iff.mpr hv, rfl⟩))
      | false => exact .inl (unallocatedPattern_iff.mpr (.inr (.inr (.inr (.inl ⟨htop, h7, h4, hv, hswp⟩)))))
  | false =>
    have htop : fld w 24 4 = 0b0000#4 := by
      simp only [fld_eq_ofNat_iff]; exact ⟨h24, h25, h26, h27, Subsingleton.elim _ _⟩
    by_cases hmid : fld w 5 2 = 0b00#2
    · have hlow : fld w 4 4 = 0b1001#4 := by
        simp only [fld_eq_ofNat_iff] at hmid ⊢
        obtain ⟨h5, h6, -⟩ := hmid
        exact ⟨h4, h5, h6, h7, Subsingleton.elim _ _⟩
      cases h23 : bit w 23 with
      | true =>
        by_cases hv : v = .arm7dm
        · exact .inr (.inr (.inr ⟨htop, hlow, nofun, fun _ => hasLongMultiply_iff.mpr hv⟩))
        · refine .inl (unallocatedPattern_iff.mpr (.inr (.inr (.inl ⟨?_, hlow, hv⟩))))
          simp only [fld_eq_ofNat_iff]
          exact ⟨h23, h24, h25, h26, h27, Subsingleton.elim _ _⟩
      | false =>
        cases h22 : bit w 22 with
        | true =>
          refine .inl (unallocatedPattern_iff.mpr (.inr (.inl ⟨?_, hlow⟩)))
          simp only [fld_eq_ofNat_iff]
          exact ⟨h22, h23, h24, h25, h26, h27, Subsingleton.elim _ _⟩
        | false => exact .inr (.inr (.inr ⟨htop, hlow, fun _ => rfl, nofun⟩))
    · exact .inl (unallocatedPattern_iff.mpr (.inl ⟨htop, h7, h4, hmid⟩))

/-- Opcode 10xx with S clear: "MRS, MSR or an unallocated instruction" (30_encoding.md R117). -/
theorem testWithoutS_cases (h26 : bit w 26 = false) (h27 : bit w 27 = false)
    (hform : bit w 25 = true ∨ bit w 7 = false ∨ bit w 4 = false) (hS : fld w 23 2 = 0b10#2 ∧ bit w 20 = false) :
    unallocatedPattern v w = true ∨ (v.isArm6Plus = true ∧ statusTransferPattern w = true) := by
  have hclass : fld w 26 2 = 0b00#2 := by
    simp only [fld_eq_ofNat_iff]; exact ⟨h26, h27, Subsingleton.elim _ _⟩
  obtain ⟨hop, h20⟩ := hS
  by_cases hstatus : v.isArm6Plus = true ∧ statusTransferPattern w = true
  · exact .inr hstatus
  · refine .inl (unallocatedPattern_iff.mpr (.inr (.inr (.inr (.inr (.inl ⟨hclass, hop, h20, ?_, hstatus⟩))))))
    rintro ⟨h25, h7, h4⟩
    simp only [h25, h7, h4, Bool.false_eq_true, Bool.true_eq_false, or_self] at hform

theorem exists_standsFor_class_00x (h26 : bit w 26 = false) (h27 : bit w 27 = false) : ∃ i, StandsFor v w i := by
  by_cases hform : bit w 25 = true ∨ bit w 7 = false ∨ bit w 4 = false
  · by_cases hS : fld w 23 2 = 0b10#2 ∧ bit w 20 = false
    · rcases testWithoutS_cases (v := v) h26 h27 hform hS with h | ⟨hv, h⟩
      · exact ⟨_, standsFor_unallocated h⟩
      · exact exists_standsFor_statusTransfer hv h
    · exact exists_standsFor_dataProc h26 h27 hform hS
  · simp only [not_or, Bool.not_eq_true, Bool.not_eq_false] at hform
    obtain ⟨h25, h7, h4⟩ := hform
    rcases extension_cases (v := v) h25 h26 h27 h7 h4 with h | h | ⟨hv, h⟩ | ⟨htop, hlow, hshort, hlong⟩
    · exact ⟨_, standsFor_unallocated h⟩
    · exact ⟨_, standsFor_undefined h⟩
    · exact exists_standsFor_swap hv h
    · exact exists_standsFor_multiply htop hlow hshort hlong

theorem exists_standsFor_class_01x (h26 : bit w 26 = true) (h27 : bit w 27 = false) : ∃ i, StandsFor v w i := by
  by_cases hundef : bit w 25 = true ∧ bit w 4 = true
  · obtain ⟨h25, h4⟩ := hundef
    refine ⟨_, standsFor_undefined (undefinedPattern_iff.mpr (.inr ⟨?_, h4⟩))⟩
    simp only [fld_eq_ofNat_iff]
    exact ⟨h25, h26, h27, Subsingleton.elim _ _⟩
  · obtain ⟨hi, hbits⟩ := offset_eq_iff.mpr ⟨rfl, fun h25 => Bool.eq_false_of_not_eq_true fun h4 => hundef ⟨h25, h4⟩⟩
    rw [← encodeTransfer_eq_iff.mpr ⟨rfl, h26, h27, hi, rfl, rfl, rfl, rfl, rfl, rfl, rfl, hbits⟩]
    exact ⟨_, transferInstr_standsFor⟩

theorem exists_standsFor_class_100 (h25 : bit w 25 = false) (h26 : bit w 26 = false) (h27 : bit w 27 = true) :
    ∃ i, StandsFor v w i := by
  rw [← encodeBlock_eq_iff.mpr ⟨rfl, h25, h26, h27, rfl, rfl, rfl, rfl, rfl, rfl, rfl⟩]
  exact ⟨_, blockInstr_standsFor⟩

theorem exists_standsFor_class_101 (h25 : bit w 25 = true) (h26 : bit w 26 = false) (h27 : bit w 27 = true) :
    ∃ i, StandsFor v w i := by
  cases h24 : bit w 24 with
  | false => exact ⟨.b _ _, rfl, encode_b_eq_iff.mpr ⟨rfl, h24, h25, h26, h27, rfl⟩⟩
  | true => exact ⟨.bl _ _, rfl, encode_bl_eq_iff.mpr ⟨rfl, h24, h25, h26, h27, rfl⟩⟩

theorem exists_standsFor_class_110 (h25 : bit w 25 = false) (h26 : bit w 26 = true) (h27 : bit w 27 = true) :
    ∃ i, StandsFor v w i := by
  by_cases hres : bit w 24 = false ∧ bit w 21 = false
  · obtain ⟨h24, h21⟩ := hres
    refine ⟨_, standsFor_unallocated (unallocatedPattern_iff.mpr (.inr (.inr (.inr (.inr (.inr ⟨?_, h24, h21⟩))))))⟩
    simp only [fld_eq_ofNat_iff]
    exact ⟨h25, h26, h27, Subsingleton.elim _ _⟩
  · have hpw : bit w 24 = true ∨ bit w 21 = true := by
      rwa [not_and_or, Bool.not_eq_false, Bool.not_eq_false] at hres
    obtain ⟨hp, hwb⟩ := indexingCoproc_eq_iff.mpr ⟨rfl, hpw⟩
    have hword := encodeCoprocTransfer_eq_iff.mpr ⟨rfl, h25, h26, h27, hp, rfl, rfl, hwb, rfl, rfl, rfl, rfl, rfl⟩
    cases h20 : bit w 20 with
    | false => exact ⟨.stc _ _ _ _ _ _ _ _, rfl, by rw [encode, ← h20, hword]⟩
    | true => exact ⟨.ldc _ _ _ _ _ _ _ _, rfl, by rw [encode, ← h20, hword]⟩

theorem exists_standsFor_class_111 (h25 : bit w 25 = true) (h26 : bit w 26 = true) (h27 : bit w 27 = true) :
    ∃ i, StandsFor v w i := by
  cases h24 : bit w 24 with
  | true => exact ⟨.swi _ _, rfl, encode_swi_eq_iff.mpr ⟨rfl, h24, h25, h26, h27, rfl⟩⟩
  | false =>
    cases h4 : bit w 4 with
    | false =>
      exact ⟨.cdp _ _ _ _ _ _ _, rfl, encode_cdp_eq_iff.mpr ⟨rfl, h24, h25, h26, h27, rfl, rfl, rfl, rfl, rfl, h4, rfl⟩⟩
    | true =>
      have hword := encodeCoprocRegister_eq_iff.mpr ⟨rfl, h24, h25, h26, h27, rfl, rfl, rfl, rfl, rfl, rfl, h4, rfl⟩
      cases h20 : bit w 20 with
      | false => exact ⟨.mcr _ _ _ _ _ _ _, rfl, by rw [encode, ← h20, hword]⟩
      | true => exact ⟨.mrc _ _ _ _ _ _ _, rfl, by rw [encode, ← h20, hword]⟩

end Words

theorem exists_standsFor (v : Variant) (w : Word) : ∃ i, StandsFor v w i := by
  cases h27 : bit w 27 with
  | false =>
    cases h26 : bit w 26 with
    | false => exact exists_standsFor_class_00x h26 h27
    | true => exact exists_standsFor_class_01x h26 h27
  | true =>
    cases h26 : bit w 26 <;> cases h25 : bit w 25
    · exact exists_standsFor_class_100 h25 h26 h27
    · exact exists_standsFor_class_101 h25 h26 h27
    · exact exists_standsFor_class_110 h25 h26 h27
    · exact exists_standsFor_class_111 h25 h26 h27

/-- What the decoder does, in one statement. -/
theorem decode_eq_iff {v : Variant} {w : Word} {i : Instr} : decode v w = i ↔ StandsFor v w i := by
  constructor
  · rintro rfl
    obtain ⟨i, hwf, rfl⟩ := exists_standsFor v w
    rw [decode_encode hwf]
    exact ⟨hwf, rfl⟩
  · rintro ⟨hwf, rfl⟩
    exact decode_encode hwf

theorem decode_undefined_iff {v : Variant} {w : Word} : decode v w = .undefined w ↔ undefinedPattern v w = true := by
  rw [decode_eq_iff, StandsFor, WellFormed, encode, and_iff_left rfl]

theorem decode_unallocated_iff {v : Variant} {w : Word} : decode v w = .unallocated w ↔ unallocatedPattern v w = true := by
  rw [decode_eq_iff, StandsFor, WellFormed, encode, and_iff_left rfl]

end Sys2Proof
end

section
/-! What taking an exception leaves (60_exceptions.md R352, R353). -/

namespace Sys2Proof.Machine

theorem State.spsrOf_setBankReg (s : State) (b b' : Bank) (i : RegNum) (v : Word) :
    (s.setBankReg b i v).spsrOf b' = s.spsrOf b' := by
  cases b' <;> simp [State.spsrOf]

theorem State.spsrOf_setCpsr (s : State) (c : Cpsr) (b : Bank) : (s.setCpsr c).spsrOf b = s.spsrOf b := by cases b <;> rfl

theorem State.spsrOf_jump (s : State) (a : Word) (b : Bank) : (s.jump a).spsrOf b = s.spsrOf b := by cases b <;> rfl

theorem Exc.bank_mode_ne_usr (k : Exc) (v : Variant) : (k.mode v).bank ≠ .usr := by cases k <;> cases v <;> decide

theorem Exc.vector_eq_excRow (k : Exc) : k.vector = (excRow k).1 := by cases k <;> rfl

theorem Exc.toBits_mode (k : Exc) (v : Variant) :
    (k.mode v).toBits = if v.isArm6Plus then (excRow k).2.2 else (excRow k).2.1 := by
  cases k <;> cases v <;> rfl

theorem Exc.setsF_eq (k : Exc) : k.setsF = (k == .fiq || k == .reset) := by cases k <;> rfl

section TakeException
variable (s : State) (k : Exc) (ret : Word)

/-- Only `arm6plus` writes an SPSR, that of the mode entered. -/
theorem State.takeException_spsrOf (b : Bank) : (s.takeException k ret).spsrOf b =
    if s.variant.isArm6Plus = true ∧ (k.mode s.variant).bank = b then some s.cpsr.toPsr else s.spsrOf b := by
  unfold State.takeException
  rw [State.spsrOf_jump]
  cases s.variant.isArm6Plus with
  | false => simp [State.spsrOf_setBankReg, State.spsrOf_setCpsr]
  | true =>
    simp [State.spsrOf_setBankReg, State.spsrOf_setCpsr, State.spsrOf_setSpsrOf _ _ _ _ (k.bank_mode_ne_usr s.variant)]

/-- The only register written is R14 of the mode entered. -/
theorem State.takeException_phys (q : PhysReg) : (s.takeException k ret).phys q =
    if physReg (k.mode s.variant).bank 14#4 = some q then (if s.variant.isArm6Plus then ret else psrWord26 s.cpsr ret)
    else s.phys q := by
  unfold State.takeException
  rw [State.phys_congr (State.jump_regs _ _)]
  cases s.variant.isArm6Plus with
  | false =>
    rw [if_neg Bool.false_ne_true, State.phys_setBankReg, State.phys_congr (State.setCpsr_regs _ _)]
    rfl
  | true =>
    rw [if_pos rfl, State.phys_setBankReg, State.phys_congr ((State.setSpsrOf_regs _ _ _).trans (State.setCpsr_regs _ _))]
    rfl

theorem State.takeException_x14 :
    (s.takeException k ret).x 14#4 = if s.variant.isArm6Plus then ret else psrWord26 s.cpsr ret := by
  obtain ⟨p, hp⟩ := Option.isSome_iff_exists.mp (physReg_isSome (k.mode s.variant).bank 14#4 (by decide))
  rw [State.x, State.takeException_cpsr, State.bankReg_eq_phys hp, State.takeException_phys, if_pos hp]

/-- Each part of an exception entry, from the lemma about that part of the state. -/
theorem State.takeException_entered : Entered s k ret (s.takeException k ret) := by
  have hspsr (hv : s.variant.isArm6Plus = true) (b : Bank) :
      (s.takeException k ret).spsrOf b = if (k.mode s.variant).bank = b then some s.cpsr.toPsr else s.spsrOf b := by
    simp only [State.takeException_spsrOf, hv, true_and]
  refine ⟨?pc, ?mode, ?i, ?f, ?n, ?z, ?c, ?v, ?arm6, ?pre6, ?regs, ?system, ?bytes, ?stored⟩
  case pc => rw [State.takeException_pc, Exc.vector_eq_excRow]
  case mode => rw [State.takeException_cpsr, ← Exc.toBits_mode]
  case i | n | z | c | v => rw [State.takeException_cpsr]
  case f => rw [State.takeException_cpsr, Exc.setsF_eq, Bool.or_assoc]
  case arm6 =>
    intro hv
    refine ⟨?_, ?_, fun b hb => ?_⟩
    · rw [State.spsr, hspsr hv, State.takeException_cpsr, if_pos rfl]
    · rw [State.takeException_x14, if_pos hv]
    · rw [State.takeException_cpsr] at hb
      rw [hspsr hv, if_neg hb.symm]
  case pre6 =>
    intro hv
    refine ⟨?_, fun b => ?_⟩
    · rw [State.takeException_x14, hv, if_neg Bool.false_ne_true]
    · simp only [State.takeException_spsrOf, hv, Bool.false_eq_true, false_and, if_false]
  case regs =>
    intro q hq
    rw [State.takeException_cpsr] at hq
    rw [State.takeException_phys, if_neg (hq 14#4 (List.mem_singleton_self _))]
  case system => exact ⟨by simp, by simp, by simp, by simp, by simp⟩
  case bytes => exact fun a => by rw [State.byteAt, State.takeException_mem, State.byteAt]
  case stored => rw [State.takeException_storedWords]

end TakeException

end Sys2Proof.Machine
end

section
/-! The encoding family (30_encoding.md): decoding and encoding, the undefined and the unallocated words, the rotated
immediate. -/

namespace Sys2Proof.Machine

/-- Settles O2: format by format, the decoder reads back the fields that the encoder wrote. -/
theorem decodeOfEncode : Obligations.DecodeOfEncode := by
  unfold Obligations.DecodeOfEncode
  intro v i hwf
  exact decode_encode hwf

/-- Settles O3: every word stands for some instruction, which by O2 is the one it decodes to. -/
theorem encodeOfDecode : Obligations.EncodeOfDecode := by
  unfold Obligations.EncodeOfDecode
  intro v w
  exact decode_eq_iff.mp rfl

theorem exec_undefined (w : Word) (s : State) : exec (.undefined w) s = execUndefined w s := by rfl

theorem exec_undefined_of_passed {w : Word} {s : State} (h : condPassed s.cpsr (condOfBits (fld w 28 4)) = true) :
    exec (.undefined w) s = .next (s.takeException .undefinedInstruction (s.pc + 4)) := by
  rw [exec_undefined, execUndefined, State.whenPassed, if_pos h, State.undefinedTrap]

/-- Settles O4: a word decodes to itself as undefined exactly when that term is well formed; the trap is an exception entry. -/
theorem undefinedWordsTrap : Obligations.UndefinedWordsTrap := by
  unfold Obligations.UndefinedWordsTrap
  refine ⟨fun v w => ?_, fun w s h => ⟨_, exec_undefined_of_passed h, s.takeException_entered _ _⟩⟩
  rw [decode_undefined_iff, undefinedPattern_iff]

theorem exec_unallocated (w : Word) (s : State) : exec (.unallocated w) s = .refused .unallocatedEncoding := by rfl

/-- Settles O5: a word decodes to itself as unallocated exactly when that term is well formed; its meaning is the refusal. -/
theorem unallocatedWordsStop : Obligations.UnallocatedWordsStop := by
  unfold Obligations.UnallocatedWordsStop
  refine ⟨fun v w => ?_, exec_unallocated⟩
  rw [decode_unallocated_iff, unallocatedPattern_iff]

/-- Settles O1, by running the decoder on the fourteen words. -/
theorem decodedWords : Obligations.DecodedWords := by
  unfold Obligations.DecodedWords
  decide

/-! ### The rotated immediate -/

/-- A rotation to the right by less than the width, as a number: the upper bits move down, the lower ones to the top. -/
theorem toNat_rotateRight_of_lt {w : Nat} (x : BitVec w) {n : Nat} (hn : n < w) :
    (x.rotateRight n).toNat = x.toNat / 2 ^ n + x.toNat * 2 ^ (w - n) % 2 ^ w := by
  have hsplit : 2 ^ w = 2 ^ (w - n) * 2 ^ n := by rw [← pow_add, Nat.sub_add_cancel hn.le]
  have hlow : x.toNat / 2 ^ n < 2 ^ (w - n) := by
    rw [Nat.div_lt_iff_lt_mul (Nat.two_pow_pos n), ← hsplit]
    exact x.isLt
  have hhigh : x.toNat * 2 ^ (w - n) % 2 ^ w = 2 ^ (w - n) * (x.toNat % 2 ^ n) := by
    rw [hsplit, Nat.mul_comm, Nat.mul_mod_mul_left]
  rw [BitVec.toNat_rotateRight, Nat.mod_eq_of_lt hn, Nat.shiftRight_eq_div_pow, Nat.shiftLeft_eq, hhigh, Nat.or_comm,
    ← Nat.two_pow_add_eq_or_of_lt hlow, Nat.add_comm]

theorem toNat_rotatedImm (r : BitVec 4) (b : BitVec 8) :
    (rotatedImm r b).toNat = b.toNat / 2 ^ (2 * r.toNat) + b.toNat * 2 ^ (32 - 2 * r.toNat) % 2 ^ 32 := by
  have hr : 2 * r.toNat < 32 := by have := r.isLt; omega
  have hb : (b.zeroExtend 32).toNat = b.toNat := BitVec.toNat_setWidth_of_le (by decide)
  rw [rotatedImm, toNat_rotateRight_of_lt _ hr, hb]

theorem toNat_rotatedImm_zero (b : BitVec 8) : (rotatedImm 0#4 b).toNat = b.toNat := by simp [toNat_rotatedImm]

/-- Settles O23: the value is a rotation by less than the width; the carry is the shifter's clause for the immediate form. -/
theorem rotatedImmediate : Obligations.RotatedImmediate := by
  unfold Obligations.RotatedImmediate
  refine ⟨fun r b => ?_, fun s r b => ⟨rfl, rfl⟩⟩
  by_cases hr : r = 0#4
  · rw [if_pos hr, hr, toNat_rotatedImm_zero]
  · rw [if_neg hr, toNat_rotatedImm]

end Sys2Proof.Machine
end

section
/-! The condition codes (40_condition_codes.md): bit 0 of a code negates the test that its three top bits choose. -/

namespace Sys2Proof.Machine

/-- Setting bit 0 of a condition code gives the code of the opposite condition (40_condition_codes.md R141), row by row of R140. -/
theorem condPassed_concat_true (p : Cpsr) (t : BitVec 3) :
    condPassed p (condOfBits (t.concat true)) = !condPassed p (condOfBits (t.concat false)) := by
  obtain ⟨t⟩ := t
  fin_cases t <;> simp [condOfBits, condPassed, bne]

theorem condPassed_concat (p : Cpsr) (t : BitVec 3) (b : Bool) :
    condPassed p (condOfBits (t.concat b)) = (b ^^ condPassed p (condOfBits (t.concat false))) := by
  cases b with
  | false => rw [Bool.false_xor]
  | true => rw [Bool.true_xor, condPassed_concat_true]

theorem concat_extractLsb'_getLsbD_zero (x : BitVec 4) : (x.extractLsb' 1 3).concat (x.getLsbD 0) = x := by
  revert x
  decide

/-- Settles O10: bit 0 is split off as the negation; for each value of the three top bits the test is that of the even code. -/
theorem conditionPassedByItsBits : Obligations.ConditionPassedByItsBits := by
  unfold Obligations.ConditionPassedByItsBits
  intro p cond
  conv_lhs => rw [← concat_extractLsb'_getLsbD_zero cond, condPassed_concat]
  congr 1
  obtain ⟨t⟩ := cond.extractLsb' 1 3
  fin_cases t <;> rfl

end Sys2Proof.Machine
end

section
/-! The frame of an instruction that steps on (10_state.md R30). -/

namespace Sys2Proof.Machine

/-! ### What an instruction has kept before it steps on -/

/-- The frame of `State.StepsOn` without its clause on the pc: what an instruction has kept when it is about to step on. -/
def State.Keeps (s u : State) (regs : List RegNum) : Prop :=
  s.SameSystem u ∧ s.SameSpsrs u ∧ s.SameBytes u ∧ u.storedWords = s.storedWords ∧ s.SameRegsBut u s.cpsr.mode.bank regs

theorem State.keeps_refl (s : State) (regs : List RegNum) : s.Keeps s regs :=
  ⟨⟨rfl, rfl, rfl, rfl, rfl⟩, fun _ => rfl, fun _ => rfl, rfl, fun _ _ => rfl⟩

theorem State.spsrOf_withPc (s : State) (a : Word) (b : Bank) : State.spsrOf { s with pc := a } b = s.spsrOf b := by
  cases b <;> rfl

/-- A write of `x[i]` keeps all but that register. -/
theorem State.keeps_setX (s : State) {i : RegNum} {regs : List RegNum} (hi : i ∈ regs) (v : Word) : s.Keeps (s.setX i v) regs := by
  refine ⟨?system, fun b => State.spsrOf_setBankReg s _ b i v, fun a => ?bytes, State.setX_storedWords s i v, fun q hq => ?regs⟩
  case system => exact ⟨by simp, by simp, by simp, by simp, by simp⟩
  case bytes => rw [State.byteAt, State.setX_mem, State.byteAt]
  case regs => rw [State.setX, State.phys_setBankReg, if_neg (hq i hi)]

section Keeps
variable {s u : State} {regs : List RegNum}

theorem State.Keeps.setCpsr (h : s.Keeps u regs) (p : Cpsr) : s.Keeps (u.setCpsr p) regs := by
  obtain ⟨hsystem, hspsrs, hbytes, hstored, hregs⟩ := h
  exact ⟨hsystem, fun b => (State.spsrOf_setCpsr u p b).trans (hspsrs b), hbytes, hstored, hregs⟩

theorem State.Keeps.stepsOn (h : s.Keeps u regs) : s.StepsOn { u with pc := s.pc + 4 } regs := by
  obtain ⟨hsystem, hspsrs, hbytes, hstored, hregs⟩ := h
  exact ⟨rfl, hsystem, fun b => (State.spsrOf_withPc u _ b).trans (hspsrs b), hbytes, hstored, hregs⟩

end Keeps

/-- `x[i]` after `x[i] <- v`, in whatever the rest of the state has become, so long as the registers and the bank are the same. -/
theorem State.x_of_regs_setX {s t : State} {i : RegNum} {v : Word} (hi : i ≠ 15#4) (hregs : t.regs = (s.setX i v).regs)
    (hmode : t.cpsr.mode = s.cpsr.mode) : t.x i = v := by
  rw [State.x, State.bankReg_congr_of_ne hregs _ _ hi, hmode, State.setX, State.bankReg_setBankReg s _ i i v hi, if_pos rfl]

theorem State.whenPassed_of_passed {s : State} {c : Cond} (h : condPassed s.cpsr c = true) (body : Result) :
    s.whenPassed c body = body := by
  rw [State.whenPassed, if_pos h]

end Sys2Proof.Machine
end

section
/-! Data processing (41_data_processing.md): the adder's results as integers, what every operation makes of Rd and of the flags. -/

namespace Sys2Proof.Machine

/-! ### The adder (41_data_processing.md R159) -/

theorem getLsbD_sign (r : Word) : r.getLsbD 31 = decide (r.toInt < 0) := by
  rw [← BitVec.msb_eq_toInt, BitVec.msb_eq_getLsbD_last]

theorem toInt_complement (q : Word) : (~~~q).toInt = -q.toInt - 1 := by
  rw [BitVec.toInt_eq_toNat_cond, BitVec.toInt_eq_toNat_cond, BitVec.toNat_not]
  have hq := q.isLt
  split <;> split <;> omega

section AddWithCarry
variable (p q : Word) (cin : Bool)

theorem addWithCarry_res : (addWithCarry p q cin).res = p + q + (if cin then 1 else 0) := by
  cases cin <;> simp [addWithCarry, BitVec.ofNat_add]

theorem addWithCarry_c : (addWithCarry p q cin).c = decide (2 ^ 32 ≤ p.toNat + q.toNat + (if cin then 1 else 0)) := by
  cases cin <;> rfl

theorem addWithCarry_v : (addWithCarry p q cin).v =
    decide (p.toInt + q.toInt + (if cin then 1 else 0) < -2 ^ 31 ∨ 2 ^ 31 ≤ p.toInt + q.toInt + (if cin then 1 else 0)) := by
  cases cin <;> exact (Bool.decide_or _ _).symm

/-- Adding the complement subtracts; the complement of the carry in is the borrow in. -/
theorem addWithCarry_not_res : (addWithCarry p (~~~q) cin).res = p - q - (if cin then 0 else 1) := by
  have hnot : ~~~q = -q - 1 := BitVec.not_eq_neg_add q
  rw [addWithCarry_res, hnot]
  cases cin <;> simp only [Bool.false_eq_true, if_true, if_false] <;> ring

/-- The carry out of a subtraction is the absence of a borrow. -/
theorem addWithCarry_not_c : (addWithCarry p (~~~q) cin).c = decide (q.toNat + (if cin then 0 else 1) ≤ p.toNat) := by
  rw [addWithCarry_c, BitVec.toNat_not, decide_eq_decide]
  have hq := q.isLt
  cases cin <;> simp only [Bool.false_eq_true, if_true, if_false] <;> omega

theorem addWithCarry_not_v : (addWithCarry p (~~~q) cin).v =
    decide (p.toInt - q.toInt - (if cin then 0 else 1) < -2 ^ 31 ∨ 2 ^ 31 ≤ p.toInt - q.toInt - (if cin then 0 else 1)) := by
  rw [addWithCarry_v, toInt_complement, decide_eq_decide]
  cases cin <;> simp only [Bool.false_eq_true, if_true, if_false] <;> omega

end AddWithCarry

/-! ### The operations by class (41_data_processing.md R160, R161) -/

/-- `op` is of the logical class, its value computed by `f`. -/
def DataOp.IsLogical (op : DataOp) (f : Word → Word → Word) : Prop :=
  ∀ a b c, op.carry a b c = none ∧ op.value a b c = f a b

/-- `op` is of the arithmetic class, its value, carry and overflow those of the ALU function `f`. -/
def DataOp.IsArith (op : DataOp) (f : Word → Word → Bool → AluOut) : Prop :=
  ∀ a b c, (f a b c).res = op.value a b c ∧ some (f a b c).c = op.carry a b c ∧
    (f a b c).v = decide (op.signed a b c < -2 ^ 31 ∨ 2 ^ 31 ≤ op.signed a b c)

theorem setLogical_eq_flags {op : DataOp} {f : Word → Word → Word} (hf : op.IsLogical f) (p : Cpsr) (a : Word) (sh : Shifted) :
    p.setLogical (f a sh.val) sh.c = op.flags p a sh := by
  obtain ⟨hcarry, hvalue⟩ := hf a sh.val p.c
  simp only [DataOp.flags, hcarry, hvalue, Cpsr.setLogical, getLsbD_sign, beq_eq_decide]

theorem setArith_eq_flags {op : DataOp} {f : Word → Word → Bool → AluOut} (hf : op.IsArith f) (p : Cpsr) (a : Word)
    (sh : Shifted) : p.setArith (f a sh.val p.c) = op.flags p a sh := by
  obtain ⟨hvalue, hcarry, hv⟩ := hf a sh.val p.c
  simp only [DataOp.flags, ← hcarry, ← hvalue, hv, Cpsr.setArith, getLsbD_sign, beq_eq_decide]

theorem isLogical_and : DataOp.and.IsLogical andResult := fun _ _ _ => ⟨rfl, rfl⟩
theorem isLogical_eor : DataOp.eor.IsLogical eorResult := fun _ _ _ => ⟨rfl, rfl⟩
theorem isLogical_orr : DataOp.orr.IsLogical orrResult := fun _ _ _ => ⟨rfl, rfl⟩
theorem isLogical_bic : DataOp.bic.IsLogical bicResult := fun _ _ _ => ⟨rfl, rfl⟩
theorem isLogical_mov : DataOp.mov.IsLogical fun _ b => b := fun _ _ _ => ⟨rfl, rfl⟩
theorem isLogical_mvn : DataOp.mvn.IsLogical fun _ b => ~~~b := fun _ _ _ => ⟨rfl, rfl⟩

theorem isArith_adc : DataOp.adc.IsArith adcResult := fun a b c =>
  ⟨addWithCarry_res a b c, congrArg some (addWithCarry_c a b c), addWithCarry_v a b c⟩

theorem isArith_sbc : DataOp.sbc.IsArith sbcResult := fun a b c =>
  ⟨addWithCarry_not_res a b c, congrArg some (addWithCarry_not_c a b c), addWithCarry_not_v a b c⟩

/-- ADD is ADC with the carry clear. -/
theorem isArith_add : DataOp.add.IsArith addResult := fun a b c => by
  obtain ⟨hres, hc, hv⟩ := isArith_adc a b false
  have hsigned : DataOp.adc.signed a b false = DataOp.add.signed a b c := Int.add_zero _
  exact ⟨hres.trans (BitVec.add_zero _), hc, hsigned ▸ hv⟩

/-- SUB is SBC with the carry set. -/
theorem isArith_sub : DataOp.sub.IsArith subResult := fun a b c => by
  obtain ⟨hres, hc, hv⟩ := isArith_sbc a b true
  have hsigned : DataOp.sbc.signed a b true = DataOp.sub.signed a b c := Int.sub_zero _
  exact ⟨hres.trans (BitVec.sub_zero _), hc, hsigned ▸ hv⟩

/-- RSB is SUB, and RSC is SBC, with the operands exchanged. -/
theorem isArith_rsb : DataOp.rsb.IsArith rsbResult := fun a b c => isArith_sub b a c

theorem isArith_rsc : DataOp.rsc.IsArith rscResult := fun a b c => isArith_sbc b a c

/-! ### The instructions -/

/-- What an operation that has its operands does (41_data_processing.md R151): its value and its flags go where S and Rd say. -/
def State.runDataOp (s : State) (op : DataOp) (sf : Bool) (rd rn : RegNum) (op2 : Op2) : Result :=
  s.writeResult sf rd (op.value (s.readRn rn) (s.shifterOperand op2).val s.cpsr.c)
    (op.flags s.cpsr (s.readRn rn) (s.shifterOperand op2))

/-- What a comparison that has its operands does (41_data_processing.md R151): its flags are set. -/
def State.runTestOp (s : State) (op : TestOp) (rn : RegNum) (op2 : Op2) : Result :=
  s.advanceFrom (s.setCpsr (op.op.flags s.cpsr (s.readRn rn) (s.shifterOperand op2)))

theorem DataOp.Admits.rn_eq_zero {op : DataOp} {rn : RegNum} {op2 : Op2} (h : op.Admits rn op2) (hreads : op.readsRn = false) :
    rn = 0#4 :=
  h.left hreads

theorem DataOp.Admits.op2UsesR15_eq_false {op : DataOp} {rn : RegNum} {op2 : Op2} (h : op.Admits rn op2) :
    op2UsesR15 op2 = false := by
  obtain ⟨-, hshift⟩ := h
  cases op2 with
  | imm r b => rfl
  | shiftImm rm kind amount => rfl
  | shiftReg rm kind rc =>
    obtain ⟨-, hrm, hrc⟩ := hshift rm kind rc rfl
    simp [op2UsesR15, hrm, hrc]

theorem DataOp.Admits.r15InRegisterShift_eq_false {op : DataOp} {rn : RegNum} {op2 : Op2} (h : op.Admits rn op2) :
    r15InRegisterShift rn op2 = false := by
  rw [r15InRegisterShift, h.op2UsesR15_eq_false]
  obtain ⟨-, hshift⟩ := h
  cases op2 with
  | imm r b => rfl
  | shiftImm rm kind amount => rfl
  | shiftReg rm kind rc =>
    obtain ⟨hrn, -, -⟩ := hshift rm kind rc rfl
    simp [hrn]

section Instructions
variable {c : Cond} {sf : Bool} {rd rn : RegNum} {op2 : Op2} {s : State}

theorem logicalOp_eq_runDataOp {op : DataOp} {f : Word → Word → Word} (hf : op.IsLogical f) (hc : condPassed s.cpsr c = true)
    (h : op.Admits rn op2) : logicalOp f c sf rd rn op2 s = s.runDataOp op sf rd rn op2 := by
  obtain ⟨-, hvalue⟩ := hf (s.readRn rn) (s.shifterOperand op2).val s.cpsr.c
  simp only [logicalOp, State.whenPassed_of_passed hc, h.r15InRegisterShift_eq_false, ← setLogical_eq_flags hf, hvalue,
    State.runDataOp, Bool.false_eq_true, if_false]

theorem arithOp_eq_runDataOp {op : DataOp} {f : Word → Word → Bool → AluOut} (hf : op.IsArith f)
    (hc : condPassed s.cpsr c = true) (h : op.Admits rn op2) :
    arithOp f c sf rd rn op2 s = s.runDataOp op sf rd rn op2 := by
  obtain ⟨hvalue, -, -⟩ := hf (s.readRn rn) (s.shifterOperand op2).val s.cpsr.c
  simp only [arithOp, State.whenPassed_of_passed hc, h.r15InRegisterShift_eq_false, setArith_eq_flags hf, hvalue,
    State.runDataOp, Bool.false_eq_true, if_false]

theorem moveOp_eq_runDataOp {op : DataOp} (f : Word → Word) (hf : op.IsLogical fun _ b => f b) (hreads : op.readsRn = false)
    (hc : condPassed s.cpsr c = true) (h : op.Admits rn op2) :
    moveOp f c sf rd rn op2 s = s.runDataOp op sf rd rn op2 := by
  obtain ⟨-, hvalue⟩ := hf (s.readRn rn) (s.shifterOperand op2).val s.cpsr.c
  have hflags := setLogical_eq_flags hf s.cpsr (s.readRn rn) (s.shifterOperand op2)
  have hsbz : ¬ rn ≠ 0#4 := not_not_intro (h.rn_eq_zero hreads)
  simp only [moveOp, State.whenPassed_of_passed hc, hsbz, h.op2UsesR15_eq_false, ← hflags, hvalue, State.runDataOp,
    Bool.false_eq_true, if_false]

theorem testOp_eq_runTestOp {op : TestOp} {f : Word → Word → Word} (hf : op.op.IsLogical f) (hc : condPassed s.cpsr c = true)
    (h : op.op.Admits rn op2) : testOp f c 0#4 rn op2 s = s.runTestOp op rn op2 := by
  simp only [testOp, State.whenPassed_of_passed hc, ne_eq, not_true_eq_false, h.r15InRegisterShift_eq_false,
    setLogical_eq_flags hf, State.runTestOp, Bool.false_eq_true, if_false]

theorem compareOp_eq_runTestOp {op : TestOp} {f : Word → Word → Bool → AluOut} (hf : op.op.IsArith f)
    (hc : condPassed s.cpsr c = true) (h : op.op.Admits rn op2) :
    compareOp f c 0#4 rn op2 s = s.runTestOp op rn op2 := by
  simp only [compareOp, State.whenPassed_of_passed hc, ne_eq, not_true_eq_false, h.r15InRegisterShift_eq_false,
    setArith_eq_flags hf, State.runTestOp, Bool.false_eq_true, if_false]

/-- The twelve instructions with a destination, once the condition has passed. -/
theorem exec_dataOp {op : DataOp} (hc : condPassed s.cpsr c = true) (h : op.Admits rn op2) :
    exec (op.instr c sf rd rn op2) s = s.runDataOp op sf rd rn op2 := by
  cases op with
  | and => exact logicalOp_eq_runDataOp isLogical_and hc h
  | eor => exact logicalOp_eq_runDataOp isLogical_eor hc h
  | sub => exact arithOp_eq_runDataOp isArith_sub hc h
  | rsb => exact arithOp_eq_runDataOp isArith_rsb hc h
  | add => exact arithOp_eq_runDataOp isArith_add hc h
  | adc => exact arithOp_eq_runDataOp isArith_adc hc h
  | sbc => exact arithOp_eq_runDataOp isArith_sbc hc h
  | rsc => exact arithOp_eq_runDataOp isArith_rsc hc h
  | orr => exact logicalOp_eq_runDataOp isLogical_orr hc h
  | mov => exact moveOp_eq_runDataOp (fun v => v) isLogical_mov rfl hc h
  | bic => exact logicalOp_eq_runDataOp isLogical_bic hc h
  | mvn => exact moveOp_eq_runDataOp (fun v => ~~~v) isLogical_mvn rfl hc h

/-- The four comparisons, once the condition has passed. -/
theorem exec_testOp {op : TestOp} (hc : condPassed s.cpsr c = true) (h : op.op.Admits rn op2) :
    exec (op.instr c 0#4 rn op2) s = s.runTestOp op rn op2 := by
  cases op with
  | tst => exact testOp_eq_runTestOp (op := .tst) isLogical_and hc h
  | teq => exact testOp_eq_runTestOp (op := .teq) isLogical_eor hc h
  | cmp => exact compareOp_eq_runTestOp (op := .cmp) isArith_sub hc h
  | cmn => exact compareOp_eq_runTestOp (op := .cmn) isArith_add hc h

end Instructions

/-! ### The outcome -/

theorem DataOp.flags_mode (op : DataOp) (p : Cpsr) (a : Word) (sh : Shifted) : (op.flags p a sh).mode = p.mode := by
  unfold DataOp.flags
  cases op.carry a sh.val p.c <;> rfl

/-- The result is written and the instruction steps on; `p` is a status of the same mode. -/
theorem State.writeResult_stepsOn {s : State} {sf : Bool} {rd : RegNum} {res : Word} {p : Cpsr} (hpc : s.pc ≠ s.pcTop)
    (hrd : rd ≠ 15#4) (hmode : p.mode = s.cpsr.mode) :
    ∃ t, s.writeResult sf rd res p = .next t ∧ t.x rd = res ∧ t.cpsr = (if sf then p else s.cpsr) ∧ s.StepsOn t [rd] := by
  have hkeeps : s.Keeps (s.setX rd res) [rd] := s.keeps_setX (List.mem_singleton_self rd) res
  refine ⟨_, State.writeResult_eq_next.mpr (.inr (.inr ⟨hrd, State.advanceFrom_eq_next.mpr ⟨hpc, rfl⟩⟩)), ?_⟩
  cases sf with
  | false =>
    have hcpsr := State.setX_cpsr s rd res
    exact ⟨State.x_of_regs_setX hrd rfl (congrArg Cpsr.mode hcpsr), hcpsr, hkeeps.stepsOn⟩
  | true => exact ⟨State.x_of_regs_setX hrd rfl hmode, rfl, (hkeeps.setCpsr p).stepsOn⟩

/-- Settles O13: every operation computes what R160 says, and the common write of Rd and the status leaves the rest. -/
theorem dataProcessingResult : Obligations.DataProcessingResult := by
  unfold Obligations.DataProcessingResult
  rintro op c sf rd rn op2 s ⟨hc, hpc⟩ hrd hadmits
  rw [exec_dataOp hc hadmits]
  exact State.writeResult_stepsOn hpc hrd (op.flags_mode ..)

/-- Settles O14: the comparison is the operation's flags and no write of Rd. -/
theorem comparisonFlags : Obligations.ComparisonFlags := by
  unfold Obligations.ComparisonFlags
  rintro op c rn op2 s ⟨hc, hpc⟩ hadmits
  rw [exec_testOp hc hadmits]
  exact ⟨_, State.advanceFrom_eq_next.mpr ⟨hpc, rfl⟩, rfl, ((s.keeps_refl []).setCpsr _).stepsOn⟩

end Sys2Proof.Machine
end

section
/-! The branches (42_branch.md R200 to R202): the destination as an integer, and the frame of a jump. -/

namespace Sys2Proof.Machine

/-! ### The destination -/

theorem intCast_toNat_ofInt {w : Nat} (a : Int) : ((BitVec.ofInt w a).toNat : Int) = a % 2 ^ w := by
  rw [BitVec.toNat_ofInt, Int.toNat_of_nonneg (Int.emod_nonneg _ (by positivity))]
  norm_cast

theorem toNat_and_mask26 (v : Word) : (v &&& 0x03FFFFFF#32).toNat = v.toNat % 2 ^ 26 :=
  (BitVec.toNat_and ..).trans (Nat.and_two_pow_sub_one_eq_mod v.toNat 26)

/-- The 32-bit sum behind the destination is the integer sum, wrapped. -/
theorem branchSum_eq_ofInt (a : Word) (o : BitVec 24) :
    a + 8#32 + 4#32 * o.signExtend 32 = BitVec.ofInt 32 (a.toNat + 8 + 4 * o.toInt) := by
  rw [BitVec.ofInt_add, BitVec.ofInt_add, BitVec.ofInt_mul, BitVec.ofInt_natCast, BitVec.ofNat_toNat, BitVec.setWidth_eq]
  rfl

/-- The destination wraps at the width of the pc, since 2^26 divides 2^32. -/
theorem State.toNat_branchTarget (s : State) (o : BitVec 24) :
    ((s.branchTarget o).toNat : Int) = ((s.pc.toNat : Int) + 8 + 4 * o.toInt) % (if s.is26 then 2 ^ 26 else 2 ^ 32) := by
  have hsum := intCast_toNat_ofInt (w := 32) (s.pc.toNat + 8 + 4 * o.toInt)
  rw [State.branchTarget, branchSum_eq_ofInt]
  cases s.is26 with
  | false => exact hsum
  | true =>
    simp only [if_true, toNat_and_mask26, Int.natCast_emod, hsum]
    exact Int.emod_emod_of_dvd _ (by decide)

/-! ### The frame -/

theorem State.Keeps.jumps {s u : State} {regs : List RegNum} (h : s.Keeps u regs) (a : Word) : s.Jumps (u.jump a) regs := by
  obtain ⟨hsystem, hspsrs, hbytes, hstored, hregs⟩ := h
  have hvariant : u.variant = s.variant := hsystem.left
  refine ⟨hsystem, fun b => (State.spsrOf_jump u a b).trans (hspsrs b), hbytes, ?_, hregs⟩
  rw [State.jump_storedWords, hvariant, hstored]

/-! ### The instructions -/

theorem exec_b_of_passed {c : Cond} {s : State} (hc : condPassed s.cpsr c = true) (o : BitVec 24) :
    exec (.b c o) s = .next (s.jump (s.branchTarget o)) :=
  State.whenPassed_of_passed hc _

theorem exec_bl_of_passed {c : Cond} {s : State} (hc : condPassed s.cpsr c = true) (o : BitVec 24) :
    exec (.bl c o) s = .next ((s.setX 14#4 (s.r15At 4#32)).jump (s.branchTarget o)) :=
  State.whenPassed_of_passed hc _

/-- Settles O25: both jump to the same destination, from a state in which B has kept every register and BL all but R14. -/
theorem branches : Obligations.Branches := by
  unfold Obligations.Branches
  intro c o s hc
  have hcpsr : (s.setX 14#4 (s.r15At 4#32)).cpsr = s.cpsr := State.setX_cpsr ..
  refine ⟨⟨_, exec_b_of_passed hc o, ?frameB, rfl, s.toNat_branchTarget o⟩,
    ⟨_, exec_bl_of_passed hc o, ?frameBl, hcpsr, s.toNat_branchTarget o, ?link⟩⟩
  case frameB => exact (s.keeps_refl []).jumps _
  case frameBl => exact (s.keeps_setX (List.mem_singleton_self _) _).jumps _
  case link => exact State.x_of_regs_setX (by decide) rfl (congrArg Cpsr.mode hcpsr)

end Sys2Proof.Machine
end

section
/-! The single data transfers (44_single_data_transfer.md R230 to R248): the address and the offset. -/

namespace Sys2Proof.Machine

/-! ### The address -/

/-- Only the post-indexed form transfers at the base itself. -/
theorem selectAddr_eq_ite (ix : Indexing) (base idx : Word) : selectAddr ix base idx = if ix = .post then base else idx := by
  cases ix with
  | pre => rfl
  | preWriteBack => rfl
  | post => rfl

theorem State.transferIdx_eq_ite (s : State) (up : Bool) (rn : RegNum) (off : Offset) :
    s.transferIdx up rn off = if up then s.readRn rn + s.offsetValue off else s.readRn rn - s.offsetValue off := rfl

theorem State.transferAddr_eq_ite (s : State) (ix : Indexing) (up : Bool) (rn : RegNum) (off : Offset) :
    s.transferAddr ix up rn off = if ix = .post then s.readRn rn else s.transferIdx up rn off :=
  selectAddr_eq_ite ..

/-! ### The offset -/

theorem State.readRm_of_ne (s : State) {rm : RegNum} (h : rm ≠ 15#4) : s.readRm rm = s.x rm := if_neg h

/-- An immediate offset is unsigned (44_single_data_transfer.md R231). -/
theorem State.toNat_offsetValue_imm (s : State) (o : BitVec 12) : (s.offsetValue (.imm o)).toNat = o.toNat :=
  BitVec.toNat_setWidth_of_le (by decide)

/-- A shifted register offset is the Op2 of data processing without its carry-out. The two differ on R15 alone, which only
data processing reads as `R15_all()` (44_single_data_transfer.md R231, 41_data_processing.md R152). -/
theorem State.offsetValue_shifted (s : State) {rm : RegNum} (h : rm ≠ 15#4) (kind : ShiftKind) (amount : BitVec 5) :
    s.offsetValue (.shifted rm kind amount) = (s.shifterOperand (.shiftImm rm kind amount)).val := by
  simp only [State.offsetValue, State.shifterOperand, s.readRm_of_ne h]

/-- Settles O30: the address by the form of indexing, the offset by its two forms. -/
theorem singleTransferAddress : Obligations.SingleTransferAddress := by
  unfold Obligations.SingleTransferAddress
  refine ⟨fun s ix up rn off => ⟨?idx, ?addr⟩, ?immediate, ?shifted⟩
  case idx => exact s.transferIdx_eq_ite up rn off
  case addr => exact s.transferAddr_eq_ite ix up rn off
  case immediate => exact State.toNat_offsetValue_imm
  case shifted => exact fun s _ kind amount hrm => s.offsetValue_shifted hrm kind amount

end Sys2Proof.Machine
end

section
/-! R15 and the status written together (10_state.md R34, R39): the pc and the status that a return form leaves, or why it is
refused. -/

namespace Sys2Proof.Machine

/-! ### Modes -/

theorem Mode.toBits_of_ofBits {b : BitVec 5} {m : Mode} (h : Mode.ofBits b = some m) : m.toBits = b := by
  have hall : ∀ b, ∀ m ∈ Mode.ofBits b, m.toBits = b := by decide
  exact hall b m h

theorem Mode.toBits_of26 (b : BitVec 2) : (Mode.of26 b).toBits = 0b000#3 ++ b := by
  revert b
  decide

/-- User mode has no SPSR, every other mode has one (10_state.md R35). -/
theorem State.spsr_eq_none_iff {s : State} : s.spsr = none ↔ s.isPrivileged = false := by
  rw [State.spsr, State.isPrivileged, Mode.isPrivileged]
  cases s.cpsr.mode.bank <;> simp [State.spsrOf]

theorem State.spsr_of_usr32 {s : State} (h : s.cpsr.mode = .usr32) : s.spsr = none := by
  rw [State.spsr, h]
  rfl

/-! ### The two ways to write the status -/

theorem Cpsr.wrotePsr26_writePsr26 (p : Cpsr) (v : Word) : WrotePsr26 p (p.writePsr26 v) v := by
  unfold WrotePsr26 Cpsr.writePsr26
  cases p.mode.isPrivileged with
  | true => simp [Mode.toBits_of26]
  | false => simp

/-- The mask of the 32-bit pc leaves the six top bits alone. -/
theorem above64M_and_pcMask32 (v : Word) : above64M (v &&& 0xFFFFFFFC#32) = above64M v := by
  have hmask : (0xFFFFFFFC#32).extractLsb' 26 6 = BitVec.allOnes 6 := by decide
  rw [above64M, BitVec.extractLsb'_and, hmask, BitVec.and_allOnes, above64M]

theorem State.writePc_eq_jump (s : State) (v : Word) : s.writePc v = s.jump (v &&& s.pcTop) := by
  rw [State.writePc, State.pcTop, ← apply_ite (v &&& ·)]

theorem State.bankReg_setCpsr_jump (s : State) (p : Cpsr) (a : Word) (b : Bank) {i : RegNum} (hi : i ≠ 15#4) :
    ((s.setCpsr p).jump a).bankReg b i = s.bankReg b i :=
  State.bankReg_congr_of_ne ((State.jump_regs _ _).trans (State.setCpsr_regs _ _)) b i hi

theorem State.writePc_pc_of_32 {s : State} (h26 : s.is26 = false) (v : Word) : (s.writePc v).pc = v &&& 0xFFFFFFFC#32 := by
  rw [State.writePc_pc, h26, if_neg Bool.false_ne_true]

section Return
variable {s : State} {v : Word}

/-- A return form that can restore the status writes the pc and the status, and nothing else but what a jump does. -/
theorem State.returnTo_of_canReturn (h : s.CanReturn v) : ∃ p, s.returnTo v = .next ((s.setCpsr p).jump (v &&& s.pcTop)) ∧
    s.Returned ((s.setCpsr p).jump (v &&& s.pcTop)) v := by
  unfold State.pcTop
  cases h26 : s.is26 with
  | true =>
    refine ⟨s.cpsr.writePsr26 v, State.returnTo_eq_next.mpr (.inl ⟨h26, rfl⟩), fun _ => ⟨rfl, ?status⟩, fun h32 => ?_⟩
    case status => exact s.cpsr.wrotePsr26_writePsr26 v
    case _ => exact absurd (h26.symm.trans h32) (by decide)
  | false =>
    obtain ⟨p, m, hp, hm, hfits⟩ := h h26
    have hrange (hm26 : m.is26 = true) : above64M (s.writePc v).pc = false := by
      rw [State.writePc_pc_of_32 h26, above64M_and_pcMask32, above64M, hfits hm26]
      decide
    have hnext := State.restoreCpsr_eq_next.mpr ⟨p, m, hp, hm, hrange, rfl⟩
    rw [State.writePc_eq_jump, State.pcTop, h26] at hnext
    refine ⟨⟨p.n, p.z, p.c, p.v, p.i, p.f, m⟩, State.returnTo_eq_next.mpr (.inr ⟨h26, hnext⟩), fun h => ?_, fun _ => ⟨rfl, ?status⟩⟩
    case status => rw [hp, State.jump_cpsr, State.setCpsr_cpsr, Cpsr.toPsr, Mode.toBits_of_ofBits hm]
    case _ => exact absurd (h26.symm.trans h) (by decide)

/-- Where the status cannot be restored the return form stops, for the reason that `State.ReturnRefused` gives. -/
theorem State.returnTo_of_returnRefused {r : Refusal} (h : s.ReturnRefused v r) : s.returnTo v = .refused r := by
  obtain ⟨h26, hwhy⟩ := h
  rw [State.returnTo, h26, if_neg Bool.false_ne_true, State.restoreCpsr]
  obtain ⟨huser, rfl⟩ | ⟨p, hp, ⟨hm, rfl⟩ | ⟨m, hm, hm26, habove, rfl⟩⟩ := hwhy
  · rw [State.spsr_eq_none_iff.mpr huser]
  · simp only [hp, hm]
  · have hrange : above64M (s.writePc v).pc = true := by
      rw [State.writePc_pc_of_32 h26, above64M_and_pcMask32, above64M, bne_iff_ne]
      exact habove
    simp only [hp, hm, hm26, hrange, Bool.and_self, if_true]

end Return

/-! ### A return form at the end of an instruction -/

section Keeps
variable {s u t : State} {regs : List RegNum} {v : Word}

theorem State.Keeps.trans (h : s.Keeps u regs) (hmode : u.cpsr.mode = s.cpsr.mode) (h' : u.Keeps t regs) : s.Keeps t regs := by
  obtain ⟨⟨hvariant, hmemMap, hcoprocs, hlock, hinputs⟩, hspsrs, hbytes, hstored, hregs⟩ := h
  obtain ⟨⟨hvariant', hmemMap', hcoprocs', hlock', hinputs'⟩, hspsrs', hbytes', hstored', hregs'⟩ := h'
  rw [hmode] at hregs'
  exact ⟨⟨hvariant'.trans hvariant, hmemMap'.trans hmemMap, hcoprocs'.trans hcoprocs, hlock'.trans hlock, hinputs'.trans hinputs⟩,
    fun b => (hspsrs' b).trans (hspsrs b), fun a => (hbytes' a).trans (hbytes a), hstored'.trans hstored,
    fun q hq => (hregs' q hq).trans (hregs q hq)⟩

theorem State.Keeps.spsr (h : s.Keeps u regs) (hcpsr : u.cpsr = s.cpsr) : u.spsr = s.spsr := by
  obtain ⟨-, hspsrs, -⟩ := h
  rw [State.spsr, hcpsr, hspsrs, State.spsr]

/-- What an instruction that has kept the status and the SPSRs may return to is settled by the state it began in. -/
theorem State.Keeps.returnTo_of_canReturn (h : s.Keeps u regs) (hcpsr : u.cpsr = s.cpsr) (hret : s.CanReturn v) :
    ∃ p, u.returnTo v = .next ((u.setCpsr p).jump (v &&& s.pcTop)) ∧ s.Returned ((u.setCpsr p).jump (v &&& s.pcTop)) v := by
  have hspsr := h.spsr hcpsr
  unfold State.CanReturn State.is26 at hret
  rw [← hcpsr, ← hspsr] at hret
  obtain ⟨p, hnext, hreturned⟩ := State.returnTo_of_canReturn hret
  unfold State.Returned State.pcTop State.is26 at *
  rw [hcpsr, hspsr] at hreturned
  rw [hcpsr] at hnext
  exact ⟨p, hnext, hreturned⟩

theorem State.Keeps.returnTo_of_returnRefused {r : Refusal} (h : s.Keeps u regs) (hcpsr : u.cpsr = s.cpsr)
    (hret : s.ReturnRefused v r) : u.returnTo v = .refused r := by
  unfold State.ReturnRefused State.is26 State.isPrivileged at hret
  rw [← hcpsr, ← h.spsr hcpsr] at hret
  exact State.returnTo_of_returnRefused hret

end Keeps

end Sys2Proof.Machine
end

section
/-! Reads of words (20_memory.md R71 to R74). -/

namespace Sys2Proof.Machine

theorem isAligned_iff (a : Word) : isAligned a = true ↔ a.toNat % 4 = 0 := by
  rw [isAligned, beq_iff_eq, ← BitVec.toNat_inj]
  simp

theorem above64M_eq_false_iff (a : Word) : above64M a = false ↔ a.toNat < 2 ^ 26 := by
  rw [above64M, bne_eq_false_iff_eq, ← BitVec.toNat_inj]
  simp [Nat.shiftRight_eq_div_pow]
  omega

theorem State.outOfRange_eq_false_iff (s : State) (a : Word) :
    s.outOfRange a = false ↔ (s.variant.isArm6Plus = false → a.toNat < 2 ^ 26) := by
  rw [State.outOfRange, ← above64M_eq_false_iff]
  cases s.variant.isArm6Plus <;> simp

/-- The bytes of an aligned word lie at the next three addresses: none wraps around. -/
theorem byteAddr_of_aligned {a : Word} (h : a.toNat % 4 = 0) {k : Nat} (hk : k < 4) : byteAddr a k = a.toNat + k := by
  have hlt := a.isLt
  rw [byteAddr, BitVec.toNat_add, BitVec.toNat_ofNat]
  omega

theorem toNat_wordOfBytes (b0 b1 b2 b3 : Byte) : (wordOfBytes b0 b1 b2 b3).toNat =
    b0.toNat + 2 ^ 8 * b1.toNat + 2 ^ 16 * b2.toNat + 2 ^ 24 * b3.toNat := by
  have h0 := b0.isLt
  have h1 := b1.isLt
  have h2 := b2.isLt
  rw [wordOfBytes, BitVec.toNat_append, BitVec.toNat_append, BitVec.toNat_append,
    ← Nat.shiftLeft_add_eq_or_of_lt h2, ← Nat.shiftLeft_add_eq_or_of_lt h1, ← Nat.shiftLeft_add_eq_or_of_lt h0]
  omega

/-- A word read at an aligned address is the number that its four bytes hold. -/
theorem State.toNat_wordAt (s : State) {a : Word} (h : a.toNat % 4 = 0) : (s.wordAt a).toNat = s.leWord a.toNat := by
  rw [State.wordAt, readMemWord, toNat_wordOfBytes, byteAddr_of_aligned h (by decide), byteAddr_of_aligned h (by decide),
    byteAddr_of_aligned h (by decide), byteAddr_of_aligned h (by decide), State.leWord]
  rfl

end Sys2Proof.Machine
end

section
/-! The block data transfers (45_block_data_transfer.md R260 to R278): the list, the addresses, the checks, the writes of the
registers, and what a load leaves. -/

namespace Sys2Proof.Machine

/-! ### The list and the addresses (45_block_data_transfer.md R261) -/

theorem mem_listRegs {list : BitVec 16} {i : RegNum} : i ∈ listRegs list ↔ list.getLsbD i.toNat = true := by
  simp only [listRegs, List.mem_map, List.mem_filter, List.mem_range]
  constructor
  · rintro ⟨k, ⟨hk, hlist⟩, rfl⟩
    rwa [BitVec.toNat_ofNat, Nat.mod_eq_of_lt hk]
  · exact fun hlist => ⟨i.toNat, ⟨i.isLt, hlist⟩, by simp⟩

theorem nodup_listRegs (list : BitVec 16) : (listRegs list).Nodup := by
  refine (List.nodup_range.filter _).map_on fun j hj k hk h => ?_
  rw [List.mem_filter, List.mem_range] at hj hk
  have := congrArg BitVec.toNat h
  rw [BitVec.toNat_ofNat, BitVec.toNat_ofNat] at this
  omega

theorem length_listRegs_pos {list : BitVec 16} (h : list ≠ 0#16) : 0 < (listRegs list).length := by
  rw [List.length_pos_iff]
  refine fun hnil => h (BitVec.eq_of_getLsbD_eq fun k hk => ?_)
  have hnot : BitVec.ofNat 4 k ∉ listRegs list := by simp [hnil]
  rw [mem_listRegs, BitVec.toNat_ofNat, Nat.mod_eq_of_lt hk] at hnot
  rw [BitVec.getLsbD_zero, Bool.eq_false_iff]
  exact hnot

theorem wordAddrs_eq_map (start : Word) (n : Nat) : wordAddrs start n = (List.range n).map (wordAddr start) := rfl

theorem wordAddr_zero (start : Word) : wordAddr start 0 = start := by simp [wordAddr]

/-! ### The checks (45_block_data_transfer.md R278, 20_memory.md R71, R74) -/

theorem usesUserBank_iff {load hat : Bool} {list : BitVec 16} :
    usesUserBank load hat list = true ↔ hat = true ∧ (load = false ∨ list.getLsbD 15 = false) := by
  simp [usesUserBank]

theorem State.BlockAdmits.ne_zero {s : State} {load hat wb : Bool} {rn : RegNum} {list : BitVec 16}
    (h : s.BlockAdmits load hat wb rn list) : list ≠ 0#16 := by
  obtain ⟨-, hlist, -⟩ := h
  exact hlist

/-- A transfer that R278 admits passes each of the model's checks of it. -/
theorem State.BlockAdmits.blockRefusal {s : State} {load hat wb : Bool} {rn : RegNum} {list : BitVec 16}
    (h : s.BlockAdmits load hat wb rn list) : s.blockRefusal load hat wb rn list = none := by
  obtain ⟨hrn, hlist, hbase, huser, husr32⟩ := h
  have hlisted : ¬ (load ∧ wb ∧ list.getLsbD rn.toNat) := fun ⟨hload, hwb, hmem⟩ =>
    absurd (hbase hload hwb) (ne_false_of_eq_true hmem)
  have hbank (hu : usesUserBank load hat list = true) : s.isPrivileged = true ∧ wb = false := by
    obtain ⟨hhat, hcase⟩ := usesUserBank_iff.mp hu
    exact huser hhat hcase
  have hprivileged : ¬ (usesUserBank load hat list ∧ s.isPrivileged = false) := fun ⟨hu, hp⟩ =>
    absurd ((hbank hu).left.symm.trans hp) (by decide)
  have hspsr : ¬ (load ∧ hat ∧ list.getLsbD 15 ∧ s.cpsr.mode = .usr32) := fun ⟨hload, hhat, h15, hmode⟩ =>
    husr32 hhat hload h15 hmode
  have hnoWb : ¬ (usesUserBank load hat list ∧ wb) := fun ⟨hu, hwb⟩ =>
    absurd ((hbank hu).right.symm.trans hwb) (by decide)
  rw [State.blockRefusal, if_neg hrn, if_neg hlisted, if_neg hprivileged, if_neg hspsr, if_neg hlist, if_neg hnoWb]

section BlockReaches
variable {s : State} {start : Word} {n : Nat} {dir : AccessDir}

theorem State.BlockReaches.toNat_wordAddr_mod (h : s.BlockReaches start n dir) {k : Nat} (hk : k < n) :
    (wordAddr start k).toNat % 4 = 0 := by
  obtain ⟨⟨haligned, -⟩, -⟩ := h k hk
  exact haligned rfl

theorem State.BlockReaches.isAligned (h : s.BlockReaches start n dir) (hn : 0 < n) : isAligned start = true := by
  rw [isAligned_iff, ← wordAddr_zero start]
  exact h.toNat_wordAddr_mod hn

theorem State.BlockReaches.inRange (h : s.BlockReaches start n dir) : (wordAddrs start n).any s.outOfRange = false := by
  rw [wordAddrs_eq_map, List.any_map, List.any_eq_false]
  intro k hk
  obtain ⟨⟨-, hwidth⟩, -⟩ := h k (List.mem_range.mp hk)
  rw [Function.comp_apply, (s.outOfRange_eq_false_iff _).mpr hwidth]
  exact Bool.false_ne_true

theorem State.BlockReaches.firstAbort (h : s.BlockReaches start n dir) : s.firstAbort (wordAddrs start n) dir s.priv = none := by
  rw [State.firstAbort, List.findIdx?_eq_none_iff, wordAddrs_eq_map, List.forall_mem_map]
  intro k hk
  obtain ⟨-, habort⟩ := h k (List.mem_range.mp hk)
  exact habort

end BlockReaches

/-- Past its checks a block transfer comes to its accesses. -/
theorem State.checkedBlock_of_admits {s : State} {m : BlockMode} {load hat wb : Bool} {rn : RegNum} {list : BitVec 16}
    {dir : AccessDir} (h : s.BlockAdmits load hat wb rn list)
    (hreach : s.BlockReaches (blockStart m (s.x rn) (listRegs list).length) (listRegs list).length dir)
    (access : List Word → Result) : s.checkedBlock m load hat wb rn list access =
      access (wordAddrs (blockStart m (s.x rn) (listRegs list).length) (listRegs list).length) := by
  simp only [State.checkedBlock, h.blockRefusal, hreach.isAligned (length_listRegs_pos h.ne_zero), hreach.inRange]
  rfl

/-! ### The writes of the registers (45_block_data_transfer.md R264, R270) -/

/-- The bank whose registers a block transfer names. -/
def State.transferBank (s : State) (userBank : Bool) : Bank := if userBank then .usr else s.cpsr.mode.bank

theorem State.bankReg_setBankReg_of_ne (s : State) (b : Bank) {i j : RegNum} (v : Word) (h : i ≠ j) :
    (s.setBankReg b i v).bankReg b j = s.bankReg b j := by
  by_cases hi : i = 15#4
  · rw [hi, State.setBankReg_fifteen]
  · rw [State.bankReg_setBankReg s b i j v hi, if_neg h]

section WriteRegs
variable {s : State} {userBank : Bool} {b : Bank} {l : List (RegNum × Word)}

/-- One register after another, all in the same bank; R15 is none of them. -/
theorem State.writeRegs_cons (hb : s.transferBank userBank = b) (i : RegNum) (v : Word) :
    s.writeRegs userBank ((i, v) :: l) = (s.setBankReg b i v).writeRegs userBank l := by
  rw [State.writeRegs, ← hb]
  by_cases hi : i = 15#4
  · rw [if_pos hi, hi, State.setBankReg_fifteen]
  · rw [if_neg hi]
    cases userBank <;> rfl

theorem State.transferBank_congr {u : State} (hcpsr : u.cpsr = s.cpsr) (hb : s.transferBank userBank = b) :
    u.transferBank userBank = b := by
  rw [State.transferBank, hcpsr, ← hb, State.transferBank]

theorem State.bankReg_writeRegs_of_not_mem (hb : s.transferBank userBank = b) {j : RegNum} (hj : j ∉ l.map Prod.fst) :
    (s.writeRegs userBank l).bankReg b j = s.bankReg b j := by
  induction l generalizing s with
  | nil => rfl
  | cons x l ih =>
    obtain ⟨i, v⟩ := x
    rw [List.map_cons, List.mem_cons, not_or] at hj
    obtain ⟨hne, hj⟩ := hj
    rw [State.writeRegs_cons hb, ih (State.transferBank_congr (s.setBankReg_cpsr b i v) hb) hj,
      State.bankReg_setBankReg_of_ne _ _ _ (Ne.symm hne)]

/-- Where no register is written twice, each holds what was written to it. -/
theorem State.bankReg_writeRegs_of_mem (hb : s.transferBank userBank = b) (hnodup : (l.map Prod.fst).Nodup) {i : RegNum} {v : Word}
    (hmem : (i, v) ∈ l) (hi : i ≠ 15#4) : (s.writeRegs userBank l).bankReg b i = v := by
  induction l generalizing s with
  | nil => cases hmem
  | cons x l ih =>
    obtain ⟨j, w⟩ := x
    rw [List.map_cons, List.nodup_cons] at hnodup
    obtain ⟨hnot, hnodup⟩ := hnodup
    have hb' := State.transferBank_congr (s.setBankReg_cpsr b j w) hb
    rw [State.writeRegs_cons hb]
    obtain heq | htail := List.mem_cons.mp hmem
    · cases heq
      rw [State.bankReg_writeRegs_of_not_mem hb' hnot, State.bankReg_setBankReg s b i i v hi, if_pos rfl]
    · exact ih hb' hnodup htail

/-- Writes in the bank of the current mode keep all but the registers they name. -/
theorem State.keeps_writeRegs {regs : List RegNum} (h : ∀ x ∈ l, x.1 ∈ regs) : s.Keeps (s.writeRegs false l) regs := by
  induction l generalizing s with
  | nil => exact s.keeps_refl regs
  | cons x l ih =>
    obtain ⟨i, v⟩ := x
    rw [List.forall_mem_cons] at h
    obtain ⟨hi, hl⟩ := h
    rw [State.writeRegs_cons rfl]
    exact (s.keeps_setX hi v).trans (congrArg Cpsr.mode (s.setX_cpsr i v)) (ih hl)

end WriteRegs

theorem State.keeps_writeBackIf (s : State) (wb : Bool) (rn : RegNum) (v : Word) (regs : List RegNum) :
    s.Keeps (s.writeBackIf wb rn v) (if wb then rn :: regs else regs) := by
  cases wb with
  | false => exact s.keeps_refl regs
  | true => exact s.keeps_setX List.mem_cons_self v

/-! ### What a load leaves (45_block_data_transfer.md R264) -/

/-- The words that a load multiple reads, in the order of its list. -/
def State.blockWords (s : State) (m : BlockMode) (rn : RegNum) (list : BitVec 16) : List Word :=
  (wordAddrs (blockStart m (s.x rn) (listRegs list).length) (listRegs list).length).map s.wordAt

/-- The word that a load multiple reads last, the one for R15 where R15 is in the list (45_block_data_transfer.md R277). -/
def State.lastBlockWord (s : State) (m : BlockMode) (rn : RegNum) (list : BitVec 16) : Word :=
  s.wordAt (wordAddr (blockStart m (s.x rn) (listRegs list).length) ((listRegs list).length - 1))

/-- The state of a load multiple that has written back its base and loaded its registers, but not yet R15. -/
def State.blockLoaded (s : State) (m : BlockMode) (userBank wb : Bool) (rn : RegNum) (list : BitVec 16) : State :=
  (s.writeBackIf wb rn (s.blockWb m rn list)).writeRegs userBank ((listRegs list).zip (s.blockWords m rn list))

section Load
variable {s : State} {m : BlockMode} {c : Cond} {hat wb userBank : Bool} {rn : RegNum} {list : BitVec 16}

theorem State.getElem?_blockWords {k : Nat} (hk : k < (listRegs list).length) : (s.blockWords m rn list)[k]? =
    some (s.wordAt (wordAddr (blockStart m (s.x rn) (listRegs list).length) k)) := by
  simp [State.blockWords, wordAddrs_eq_map, hk]

theorem State.length_blockWords : (s.blockWords m rn list).length = (listRegs list).length := by
  simp [State.blockWords, wordAddrs_eq_map]

theorem State.getLastD_blockWords (h : list ≠ 0#16) (w : Word) :
    (s.blockWords m rn list).getLastD w = s.lastBlockWord m rn list := by
  have hn := length_listRegs_pos h
  rw [List.getLastD_eq_getLast?, List.getLast?_eq_getElem?, State.length_blockWords, State.getElem?_blockWords (by omega),
    Option.getD_some, State.lastBlockWord]

theorem State.blockLoaded_regs_eq : ((listRegs list).zip (s.blockWords m rn list)).map Prod.fst = listRegs list :=
  List.map_fst_zip State.length_blockWords.ge

theorem State.blockLoaded_cpsr : (s.blockLoaded m userBank wb rn list).cpsr = s.cpsr := by
  rw [State.blockLoaded, State.writeRegs_cpsr, State.writeBackIf_cpsr]

/-- The k-th listed register holds the k-th word. -/
theorem State.bankReg_blockLoaded {b : Bank} (hb : s.transferBank userBank = b) {k : Nat} {i : RegNum}
    (hk : (listRegs list)[k]? = some i) (hi : i ≠ 15#4) : (s.blockLoaded m userBank wb rn list).bankReg b i =
      s.wordAt (wordAddr (blockStart m (s.x rn) (listRegs list).length) k) := by
  obtain ⟨hlt, -⟩ := List.getElem?_eq_some_iff.mp hk
  have hmem : (i, s.wordAt (wordAddr (blockStart m (s.x rn) (listRegs list).length) k)) ∈
      (listRegs list).zip (s.blockWords m rn list) :=
    List.mem_of_getElem? (List.getElem?_zip_eq_some.mpr ⟨hk, State.getElem?_blockWords hlt⟩)
  have hnodup : (((listRegs list).zip (s.blockWords m rn list)).map Prod.fst).Nodup := by
    rw [State.blockLoaded_regs_eq]
    exact nodup_listRegs list
  exact State.bankReg_writeRegs_of_mem (State.transferBank_congr (s.writeBackIf_cpsr wb rn _) hb) hnodup hmem hi

/-- A base that is not listed is left as it was written back. -/
theorem State.bankReg_blockLoaded_base (hrn : rn ≠ 15#4) (hbase : list.getLsbD rn.toNat = false) :
    (s.blockLoaded m false true rn list).bankReg s.cpsr.mode.bank rn = blockWriteBack m (s.x rn) (listRegs list).length := by
  have hnot : rn ∉ ((listRegs list).zip (s.blockWords m rn list)).map Prod.fst := by
    rw [State.blockLoaded_regs_eq, mem_listRegs, hbase]
    exact Bool.false_ne_true
  have hbank : (s.writeBackIf true rn (s.blockWb m rn list)).transferBank false = s.cpsr.mode.bank :=
    State.transferBank_congr (s.writeBackIf_cpsr true rn _) rfl
  rw [State.blockLoaded, State.bankReg_writeRegs_of_not_mem hbank hnot, State.writeBackIf, if_pos rfl, State.setX,
    State.bankReg_setBankReg s _ rn rn _ hrn, if_pos rfl, State.blockWb]

theorem State.keeps_blockLoaded :
    s.Keeps (s.blockLoaded m false wb rn list) (if wb then rn :: listRegs list else listRegs list) := by
  have hlisted : ∀ x ∈ (listRegs list).zip (s.blockWords m rn list), x.1 ∈ (if wb then rn :: listRegs list else listRegs list) := by
    intro x hx
    have hmem : x.1 ∈ listRegs list := (List.of_mem_zip hx).1
    cases wb with
    | false => exact hmem
    | true => exact List.mem_cons_of_mem rn hmem
  exact (s.keeps_writeBackIf wb rn _ _).trans (congrArg Cpsr.mode (s.writeBackIf_cpsr wb rn _)) (State.keeps_writeRegs hlisted)

/-! ### The instructions -/

theorem exec_loadMultiple (m : BlockMode) (c : Cond) (hat wb : Bool) (rn : RegNum) (list : BitVec 16) (s : State) :
    exec (loadMultiple m c hat wb rn list) s = loadBlock m c hat wb rn list s := by
  cases m with
  | ia | ib | da | db => rfl

/-- A load multiple that is admitted and that no access aborts. -/
theorem exec_loadMultiple_of_admits (hc : condPassed s.cpsr c = true) (hadmits : s.BlockAdmits true hat wb rn list)
    (hreach : s.BlockReaches (blockStart m (s.x rn) (listRegs list).length) (listRegs list).length .read) :
    exec (loadMultiple m c hat wb rn list) s =
      s.loadedBlock hat wb rn list (s.blockWb m rn list) (s.blockWords m rn list) := by
  rw [exec_loadMultiple, loadBlock, State.whenPassed_of_passed hc, State.checkedBlock_of_admits hadmits hreach]
  simp only [hreach.firstAbort]
  rfl

end Load

/-! ### R15 in the list (45_block_data_transfer.md R271, R277) -/

section LoadWithPc
variable {s : State} {m : BlockMode} {c : Cond} {hat wb : Bool} {rn : RegNum} {list : BitVec 16}

theorem ne_zero_of_pc (h15 : list.getLsbD 15 = true) : list ≠ 0#16 := by
  rintro rfl
  exact absurd h15 (by decide)

theorem State.CanReturn.mode_ne_usr32 {v : Word} (h : s.CanReturn v) : s.cpsr.mode ≠ .usr32 := by
  intro hmode
  obtain ⟨p, -, hp, -⟩ := h (by rw [State.is26, hmode]; rfl)
  exact absurd (hp.symm.trans (State.spsr_of_usr32 hmode)) (Option.some_ne_none p)

theorem State.blockAdmits_of_pc (hrn : rn ≠ 15#4) (h15 : list.getLsbD 15 = true)
    (hbase : wb = true → list.getLsbD rn.toNat = false) (hmode : hat = true → s.cpsr.mode ≠ .usr32) :
    s.BlockAdmits true hat wb rn list := by
  have hbank : ¬ (true = false ∨ list.getLsbD 15 = false) := by rw [h15]; decide
  exact ⟨hrn, ne_zero_of_pc h15, fun _ => hbase, fun _ huser => absurd huser hbank, fun hhat _ _ => hmode hhat⟩

theorem State.blockRefusal_of_usr32 (hrn : rn ≠ 15#4) (h15 : list.getLsbD 15 = true)
    (hbase : wb = true → list.getLsbD rn.toNat = false) (hmode : s.cpsr.mode = .usr32) :
    s.blockRefusal true true wb rn list = some .spsrInUser := by
  have hlisted : ¬ (true = true ∧ wb = true ∧ list.getLsbD rn.toNat = true) := fun ⟨_, hwb, hmem⟩ =>
    absurd (hbase hwb) (ne_false_of_eq_true hmem)
  have huser : ¬ (usesUserBank true true list = true ∧ s.isPrivileged = false) := by simp [usesUserBank, h15]
  rw [State.blockRefusal, if_neg hrn, if_neg hlisted, if_neg huser, if_pos ⟨rfl, rfl, h15, hmode⟩]

theorem exec_loadMultiple_of_blockRefusal {r : Refusal} (hc : condPassed s.cpsr c = true)
    (h : s.blockRefusal true hat wb rn list = some r) : exec (loadMultiple m c hat wb rn list) s = .refused r := by
  rw [exec_loadMultiple, loadBlock, State.whenPassed_of_passed hc, State.checkedBlock, h]

variable (h15 : list.getLsbD 15 = true)
  (hreach : s.BlockReaches (blockStart m (s.x rn) (listRegs list).length) (listRegs list).length .read)
include h15 hreach

/-- The registers are those of the current mode, and R15 is written at the end. -/
theorem exec_loadMultiple_of_pc (hc : condPassed s.cpsr c = true) (hadmits : s.BlockAdmits true hat wb rn list) :
    exec (loadMultiple m c hat wb rn list) s =
      if hat then (s.blockLoaded m false wb rn list).returnTo (s.lastBlockWord m rn list)
      else .next ((s.blockLoaded m false wb rn list).writePc (s.lastBlockWord m rn list)) := by
  have hbank : usesUserBank true hat list = false := by simp [usesUserBank, h15]
  rw [exec_loadMultiple_of_admits hc hadmits hreach, State.loadedBlock, hbank, if_pos h15,
    State.getLastD_blockWords (ne_zero_of_pc h15), State.blockLoaded]

/-- With or without S the load ends in a jump, from the state that holds the loaded registers; S alone changes the status. -/
theorem exec_loadMultiple_jumps (hc : condPassed s.cpsr c = true) (hadmits : s.BlockAdmits true hat wb rn list)
    (hret : hat = true → s.CanReturn (s.lastBlockWord m rn list)) :
    ∃ p, exec (loadMultiple m c hat wb rn list) s =
        .next (((s.blockLoaded m false wb rn list).setCpsr p).jump (s.lastBlockWord m rn list &&& s.pcTop)) ∧
      (hat = false → p = s.cpsr) ∧
      (hat = true → s.Returned (((s.blockLoaded m false wb rn list).setCpsr p).jump (s.lastBlockWord m rn list &&& s.pcTop))
        (s.lastBlockWord m rn list)) := by
  have hcpsr : (s.blockLoaded m false wb rn list).cpsr = s.cpsr := State.blockLoaded_cpsr
  rw [exec_loadMultiple_of_pc h15 hreach hc hadmits]
  cases hat with
  | false =>
    have htop : (s.blockLoaded m false wb rn list).pcTop = s.pcTop := by rw [State.pcTop, State.is26, hcpsr, State.pcTop]
    refine ⟨s.cpsr, ?_, fun _ => rfl, fun h => nomatch h⟩
    rw [if_neg Bool.false_ne_true, State.writePc_eq_jump, htop, ← hcpsr]
    rfl
  | true =>
    obtain ⟨p, hnext, hreturned⟩ := State.keeps_blockLoaded.returnTo_of_canReturn hcpsr (hret rfl)
    exact ⟨p, hnext, fun h => (nomatch h), fun _ => hreturned⟩

/-- User mode is refused before the accesses, the other cases of R39 after them. -/
theorem exec_loadMultiple_of_returnRefused {r : Refusal} (hc : condPassed s.cpsr c = true) (hrn : rn ≠ 15#4)
    (hbase : wb = true → list.getLsbD rn.toNat = false)
    (hrefused : s.ReturnRefused (s.lastBlockWord m rn list) r) : exec (loadMultiple m c true wb rn list) s = .refused r := by
  by_cases hmode : s.cpsr.mode = .usr32
  · obtain ⟨-, ⟨-, rfl⟩ | ⟨p, hp, -⟩⟩ := hrefused
    · exact exec_loadMultiple_of_blockRefusal hc (State.blockRefusal_of_usr32 hrn h15 hbase hmode)
    · exact absurd (hp.symm.trans (State.spsr_of_usr32 hmode)) (Option.some_ne_none p)
  · rw [exec_loadMultiple_of_pc h15 hreach hc (State.blockAdmits_of_pc hrn h15 hbase fun _ => hmode), if_pos rfl]
    exact State.keeps_blockLoaded.returnTo_of_returnRefused State.blockLoaded_cpsr hrefused

/-- The word for R15 as the number that its four bytes hold. -/
theorem State.ofNat_leWord_last :
    BitVec.ofNat 32 (s.leWord (wordAddr (blockStart m (s.x rn) (listRegs list).length) ((listRegs list).length - 1)).toNat) =
      s.lastBlockWord m rn list := by
  have hn := length_listRegs_pos (ne_zero_of_pc h15)
  rw [← s.toNat_wordAt (hreach.toNat_wordAddr_mod (by omega)), BitVec.ofNat_toNat, BitVec.setWidth_eq, State.lastBlockWord]

end LoadWithPc

/-- Settles O37: the load ends in a jump from a state whose registers are known, or in the refusal of the return. -/
theorem loadMultipleWithPc : Obligations.LoadMultipleWithPc := by
  unfold Obligations.LoadMultipleWithPc
  constructor
  · intro m c hat wb rn list s hc hrn h15 hbase hreach
    dsimp only
    rw [State.ofNat_leWord_last h15 hreach]
    intro hret
    have hadmits := State.blockAdmits_of_pc hrn h15 hbase fun hhat => (hret hhat).mode_ne_usr32
    have hbank : s.transferBank false = s.cpsr.mode.bank := rfl
    obtain ⟨p, hnext, hstatus, hreturned⟩ := exec_loadMultiple_jumps h15 hreach hc hadmits hret
    refine ⟨_, hnext, fun k i hk hi => ?listed, ?base, fun hhat => ⟨hstatus hhat, rfl⟩, hreturned,
      (State.keeps_blockLoaded.setCpsr p).jumps _⟩
    case listed =>
      obtain ⟨hlt, -⟩ := List.getElem?_eq_some_iff.mp hk
      rw [← s.toNat_wordAt (hreach.toNat_wordAddr_mod hlt), State.bankReg_setCpsr_jump _ _ _ _ hi,
        State.bankReg_blockLoaded hbank hk hi]
    case base =>
      rintro rfl
      rw [State.bankReg_setCpsr_jump _ _ _ _ hrn, State.bankReg_blockLoaded_base hrn (hbase rfl)]
  · intro m c wb rn list s r hc hrn h15 hbase hreach hrefused
    rw [State.ofNat_leWord_last h15 hreach] at hrefused
    exact exec_loadMultiple_of_returnRefused h15 hreach hc hrn hbase hrefused

end Sys2Proof.Machine
end

section
/-! The coprocessor instructions (47_coprocessor.md R295 to R304): which words a coprocessor responds to, and the trap when none
does. -/

namespace Sys2Proof.Machine

section Responder
variable {s : State} {p : RegNum} {w : Word}

/-- The two reasons of R297: coprocessor p is absent, or it is present and turns the word away. -/
theorem State.responder_eq_none_iff : s.responder p w = none ↔
    ∀ st, s.coprocs[p.toNat]'p.isLt = some st → ∀ a ∈ st.accepts, w &&& a.mask ≠ a.value := by
  unfold State.responder
  cases hst : s.coprocs[p.toNat]'p.isLt with
  | none => exact iff_of_true rfl nofun
  | some st => simp

theorem State.withResponder_of_none (h : s.responder p w = none) (body : Coproc → Result) :
    s.withResponder p w body = .next (s.takeException .undefinedInstruction (s.pc + 4)) :=
  State.withResponder_eq_next.mpr (.inl ⟨h, rfl⟩)

end Responder

/-- Settles O44: each of the five first asks for a response, MCR once Rd is known not to be R15; without one the trap is all
that it does. -/
theorem coprocessorAbsent : Obligations.CoprocessorAbsent := by
  unfold Obligations.CoprocessorAbsent
  intro i c p s hc hi hrejects
  have hasks : ∃ body, exec i s = s.withResponder p (encode i) body := by
    rcases hi with ⟨o, crn, crd, q, crm, rfl⟩ | ⟨ix, up, long, rn, crd, o, rfl⟩ | ⟨ix, up, long, rn, crd, o, rfl⟩ |
      ⟨o, crn, rd, q, crm, hrd, rfl⟩ | ⟨o, crn, rd, q, crm, rfl⟩
    -- MCR, whose check of Rd comes before the question (R303)
    case inr.inr.inr.inl => exact ⟨_, (State.whenPassed_of_passed hc _).trans (if_neg hrd)⟩
    all_goals exact ⟨_, State.whenPassed_of_passed hc _⟩
  obtain ⟨body, hexec⟩ := hasks
  have hnone : s.responder p (encode i) = none := State.responder_eq_none_iff.mpr hrejects
  exact ⟨_, hexec.trans (State.withResponder_of_none hnone body), s.takeException_entered _ _⟩

end Sys2Proof.Machine
end

section
/-! The status transfers (49_status_transfer_and_undefined.md R335 to R337): what `WritePSRfields` makes of the CPSR, and when MSR goes
through. -/

namespace Sys2Proof.Machine

/-! ### `WritePSRfields` on the CPSR (49_status_transfer_and_undefined.md R335) -/

theorem partWritesFlags_iff {part : PsrPart} : partWritesFlags part = true ↔ part ≠ .ctl := by cases part <;> decide

theorem partWritesControl_iff {part : PsrPart} : partWritesControl part = true ↔ part ≠ .flg := by cases part <;> decide

/-- MSR to the CPSR reaches the control bits: `aaaa` names them and the mode is privileged. -/
def Cpsr.ControlWritten (p : Cpsr) (part : PsrPart) : Prop := part ≠ .flg ∧ p.mode.isPrivileged = true

/-- The CPSR `p` with the flags of `v` where `aaaa` names them, the flag half of `WritePSRfields`. -/
def Cpsr.writeFlags (p : Cpsr) (part : PsrPart) (v : Word) : Cpsr :=
  if partWritesFlags part then { p with n := v.getLsbD 31, z := v.getLsbD 30, c := v.getLsbD 29, v := v.getLsbD 28 } else p

/-- What MSR of `v` makes of the CPSR `p`: the flags and the control bits of `q` are each those of `v` or as before. -/
def Cpsr.WroteFields (p q : Cpsr) (part : PsrPart) (v : Word) : Prop :=
  (part ≠ .ctl → q.n = v.getLsbD 31 ∧ q.z = v.getLsbD 30 ∧ q.c = v.getLsbD 29 ∧ q.v = v.getLsbD 28) ∧
  (part = .ctl → q.n = p.n ∧ q.z = p.z ∧ q.c = p.c ∧ q.v = p.v) ∧
  (p.ControlWritten part → q.i = v.getLsbD 7 ∧ q.f = v.getLsbD 6 ∧ q.mode.toBits = v.extractLsb' 0 5) ∧
  (¬ p.ControlWritten part → q.i = p.i ∧ q.f = p.f ∧ q.mode = p.mode)

section WriteFields
variable {p q : Cpsr} {part : PsrPart} {v : Word}

theorem Cpsr.controlWritten_iff : (partWritesControl part && p.mode.isPrivileged) = true ↔ p.ControlWritten part := by
  rw [Bool.and_eq_true, partWritesControl_iff, Cpsr.ControlWritten]

theorem Cpsr.writeFlags_of_ne_ctl (h : part ≠ .ctl) :
    p.writeFlags part v = { p with n := v.getLsbD 31, z := v.getLsbD 30, c := v.getLsbD 29, v := v.getLsbD 28 } :=
  if_pos (partWritesFlags_iff.mpr h)

theorem Cpsr.writeFlags_ctl : p.writeFlags .ctl v = p := rfl

theorem Cpsr.writeFlags_control :
    (p.writeFlags part v).i = p.i ∧ (p.writeFlags part v).f = p.f ∧ (p.writeFlags part v).mode = p.mode := by
  cases part <;> exact ⟨rfl, rfl, rfl⟩

theorem Cpsr.writeFields_of_control (h : p.ControlWritten part) : p.writeFields part v =
    (Mode.ofBits (v.extractLsb' 0 5)).map fun m => { p.writeFlags part v with i := v.getLsbD 7, f := v.getLsbD 6, mode := m } :=
  if_pos (Cpsr.controlWritten_iff.mpr h)

theorem Cpsr.writeFields_of_not_control (h : ¬ p.ControlWritten part) : p.writeFields part v = some (p.writeFlags part v) :=
  if_neg (mt Cpsr.controlWritten_iff.mp h)

/-- The flags come from the flag half in either case, the control bits from `v` only when they are written. -/
theorem Cpsr.wroteFields_of_writeFields (h : p.writeFields part v = some q) : p.WroteFields q part v := by
  have hflags (hpart : part ≠ .ctl) : (p.writeFlags part v).n = v.getLsbD 31 ∧ (p.writeFlags part v).z = v.getLsbD 30 ∧
      (p.writeFlags part v).c = v.getLsbD 29 ∧ (p.writeFlags part v).v = v.getLsbD 28 := by
    rw [Cpsr.writeFlags_of_ne_ctl hpart]
    exact ⟨rfl, rfl, rfl, rfl⟩
  have hkept (hpart : part = .ctl) : (p.writeFlags part v).n = p.n ∧ (p.writeFlags part v).z = p.z ∧
      (p.writeFlags part v).c = p.c ∧ (p.writeFlags part v).v = p.v := by
    rw [hpart, Cpsr.writeFlags_ctl]
    exact ⟨rfl, rfl, rfl, rfl⟩
  by_cases hcontrol : p.ControlWritten part
  · obtain ⟨m, hm, rfl⟩ := Option.map_eq_some_iff.mp ((Cpsr.writeFields_of_control hcontrol).symm.trans h)
    exact ⟨hflags, hkept, fun _ => ⟨rfl, rfl, Mode.toBits_of_ofBits hm⟩, fun hnot => absurd hcontrol hnot⟩
  · obtain rfl := Option.some.inj ((Cpsr.writeFields_of_not_control hcontrol).symm.trans h)
    exact ⟨hflags, hkept, fun hc => absurd hc hcontrol, fun _ => Cpsr.writeFlags_control⟩

end WriteFields

/-! ### MSR to the CPSR (49_status_transfer_and_undefined.md R336, R337) -/

/-- M[4] tells the 26-bit modes from the 32-bit ones (10_state.md R37). -/
theorem Mode.is26_iff (m : Mode) : m.is26 = true ↔ m.toBits.getLsbD 4 = false := by cases m <;> decide

section MsrAdmits
variable {s : State} {part : PsrPart} {v : Word}

/-- The mode is defined where it is written. -/
theorem State.MsrAdmits.exists_writeFields (h : s.MsrAdmits part v) : ∃ q, s.cpsr.writeFields part v = some q := by
  obtain ⟨hdefined, -⟩ := h
  by_cases hcontrol : s.cpsr.ControlWritten part
  · obtain ⟨m, hm⟩ := hdefined hcontrol
    exact ⟨_, by rw [Cpsr.writeFields_of_control hcontrol, hm, Option.map_some]⟩
  · exact ⟨_, Cpsr.writeFields_of_not_control hcontrol⟩

/-- A 26-bit mode afterwards, whether written by `v` or kept, finds the next pc below 64 MBytes. -/
theorem State.MsrAdmits.above64M_eq_false (h : s.MsrAdmits part v) {q : Cpsr} (hq : s.cpsr.WroteFields q part v)
    (h26 : q.mode.is26 = true) : above64M (s.pc + 4) = false := by
  obtain ⟨-, hrange⟩ := h
  obtain ⟨-, -, hwritten, hkept⟩ := hq
  refine bne_eq_false_iff_eq.mpr (hrange ?_)
  by_cases hcontrol : s.cpsr.ControlWritten part
  · obtain ⟨-, -, hmode⟩ := hwritten hcontrol
    rw [Mode.is26_iff, hmode, BitVec.getLsbD_extractLsb'] at h26
    exact (if_pos hcontrol).mpr h26
  · obtain ⟨-, -, hmode⟩ := hkept hcontrol
    rw [hmode] at h26
    exact (if_neg hcontrol).mpr h26

theorem State.writePsr_cpsr_of_admits (hpc : s.pc ≠ s.pcTop) (h : s.MsrAdmits part v) :
    ∃ q, s.cpsr.WroteFields q part v ∧ s.writePsr false part v = .next { s.setCpsr q with pc := s.pc + 4 } := by
  obtain ⟨q, hq⟩ := h.exists_writeFields
  have hwrote := Cpsr.wroteFields_of_writeFields hq
  have hrange : ¬ (q.mode.is26 && above64M (s.pc + 4)) = true := by
    rw [Bool.and_eq_true]
    rintro ⟨h26, habove⟩
    exact Bool.false_ne_true ((h.above64M_eq_false hwrote h26).symm.trans habove)
  refine ⟨q, hwrote, ?_⟩
  rw [State.writePsr, if_neg Bool.false_ne_true, hq]
  exact (if_neg hrange).trans (State.advanceFrom_eq_next.mpr ⟨hpc, rfl⟩)

end MsrAdmits

/-- Both forms of MSR to the CPSR, past the condition and the check of Rm, write their source word. -/
theorem exec_msrCpsr_of_passed {c : Cond} {part : PsrPart} {i : Instr} {v : Word} {s : State} (hc : condPassed s.cpsr c = true)
    (hi : (∃ rm, rm ≠ 15#4 ∧ i = .msrReg c false part rm ∧ v = s.x rm) ∨
      (∃ r b, i = .msrImm c false part r b ∧ v = rotatedImm r b)) :
    exec i s = s.writePsr false part v := by
  rcases hi with ⟨rm, hrm, rfl, rfl⟩ | ⟨r, b, rfl, rfl⟩
  case inl => exact (State.whenPassed_of_passed hc _).trans (if_neg hrm)
  case inr => exact State.whenPassed_of_passed hc _

/-- Settles O52: MSR steps on from the state with the CPSR written, and the frame is that of a write of the CPSR. -/
theorem msrWritesTheCpsr : Obligations.MsrWritesTheCpsr := by
  unfold Obligations.MsrWritesTheCpsr
  intro c part i v s hready hi hadmits
  obtain ⟨hc, hpc⟩ := hready
  obtain ⟨q, hwrote, hnext⟩ := State.writePsr_cpsr_of_admits hpc hadmits
  exact ⟨_, (exec_msrCpsr_of_passed hc hi).trans hnext, ((s.keeps_refl []).setCpsr q).stepsOn, hwrote⟩

end Sys2Proof.Machine
end

section
/-! Exceptions and the step (60_exceptions.md R352 to R364): what is due in a step, in the order of R364, and the step it makes. -/

namespace Sys2Proof.Machine

/-- A request that its mask bit holds off, as the step tests it. -/
theorem request_masked {request mask : Bool} (h : request = true → mask = true) : (request && !mask) = false := by
  cases request
  case false => rfl
  case true => rw [h rfl]; rfl

section Due
variable {s : State}

/-! ### What is due (60_exceptions.md R356, R364) -/

section NoReset
variable (hreset : s.inputsNow.reset = false)
include hreset

theorem State.due_of_fiq (hfiq : s.inputsNow.fiq = true) (hf : s.cpsr.f = false) :
    s.due = .entered (s.inputsTaken.takeException .fiq (s.pc + 4)) := by
  simp [State.due, hreset, hfiq, hf]

variable (hfiq : s.inputsNow.fiq = true → s.cpsr.f = true)
include hfiq

theorem State.due_of_irq (hirq : s.inputsNow.irq = true) (hi : s.cpsr.i = false) :
    s.due = .entered (s.inputsTaken.takeException .irq (s.pc + 4)) := by
  simp [State.due, hreset, request_masked hfiq, hirq, hi]

/-- With no enabled request, the fetch decides. -/
theorem State.due_of_no_request (hirq : s.inputsNow.irq = true → s.cpsr.i = true) :
    s.due =
      if s.aborts s.pc .word .read s.priv = true then .entered (s.inputsTaken.takeException .prefetchAbort (s.pc + 4))
      else if s.storedWords.contains (wordBase s.pc) then .stop .selfModifyingCode
      else .run (decode s.variant (s.wordAt s.pc)) s.inputsTaken := by
  unfold State.due
  simp only [State.inputsTaken_cpsr, hreset, request_masked hfiq, request_masked hirq, Bool.false_eq_true, if_false]
  rfl

end NoReset

/-! ### The step -/

theorem step_of_due_entered {t : State} (h : s.due = .entered t) : step s = .next t := by rw [step, h]

theorem step_of_due_run {i : Instr} {t : State} (h : s.due = .run i t) : step s = exec i t := by rw [step, h]

/-- An exception that is due is entered as R353 says, from the state with its sample of the inputs taken. -/
theorem step_enters_of_due {k : Exc} {ret : Word} (h : s.due = .entered (s.inputsTaken.takeException k ret)) :
    ∃ t, step s = .next t ∧ Entered s.inputsTaken k ret t :=
  ⟨_, step_of_due_entered h, s.inputsTaken.takeException_entered k ret⟩

end Due

/-- Settles O7: in the order of R364, each of the three is what is due. -/
theorem stepTakesInterrupts : Obligations.StepTakesInterrupts := by
  unfold Obligations.StepTakesInterrupts
  refine ⟨?fiq, ?irq, ?prefetchAbort⟩
  case fiq =>
    intro s hreset hfiq hf
    exact step_enters_of_due (State.due_of_fiq hreset hfiq hf)
  case irq =>
    intro s hreset hfiq hirq hi
    exact step_enters_of_due (State.due_of_irq hreset hfiq hirq hi)
  case prefetchAbort =>
    intro s hreset hfiq hirq habort
    exact step_enters_of_due ((State.due_of_no_request hreset hfiq hirq).trans (if_pos habort))

/-- Settles O42: the parts of an entry are those of `State.takeException_entered`. -/
theorem exceptionEntry : Obligations.ExceptionEntry := by
  unfold Obligations.ExceptionEntry
  exact State.takeException_entered

/-- Settles O6: with no request, no abort and no stored word in the way, what is due is the decoded instruction. -/
theorem stepRunsTheDecodedInstruction : Obligations.StepRunsTheDecodedInstruction := by
  unfold Obligations.StepRunsTheDecodedInstruction
  rintro s _ hreset hfiq hirq habort hstored rfl
  have hrun : s.due = .run (decode s.variant (s.wordAt s.pc)) s.inputsTaken := by
    rw [State.due_of_no_request hreset hfiq hirq, if_neg (Bool.eq_false_iff.mp habort),
      if_neg (mt List.contains_iff_mem.mp hstored)]
  exact step_of_due_run hrun

end Sys2Proof.Machine
end

section
/-! What every step keeps (10_state.md R27, R30, R43; 60_exceptions.md R363, R381; 00_scope.md R5, R6): one relation that each of the
ways in which an instruction ends establishes. -/

namespace Sys2Proof.Machine

/-! ### What an instruction has done before it ends -/

/-- From `s` an instruction has come to `u`, the registers, the pc and the status apart: the parameters are the same, and memory, the
stored words and LOCK are as the invariant wants them. -/
structure State.Carries (s u : State) : Prop where
  variant : u.variant = s.variant
  memMap : u.memMap = s.memMap
  inputs : u.inputs = s.inputs
  mem : s.MemOk → u.MemOk
  stored : s.StoredOk → u.StoredOk
  lock : s.lock = false → u.lock = false

theorem State.carries_of_same {s u : State} (variant : u.variant = s.variant) (memMap : u.memMap = s.memMap)
    (inputs : u.inputs = s.inputs) (mem : u.mem = s.mem) (stored : u.storedWords = s.storedWords) (lock : u.lock = s.lock) :
    s.Carries u :=
  ⟨variant, memMap, inputs, fun h => by rwa [State.MemOk, mem], fun h => by rwa [State.StoredOk, stored], fun h => lock.trans h⟩

theorem State.Carries.trans {s u t : State} (h : s.Carries u) (h' : u.Carries t) : s.Carries t :=
  ⟨h'.variant.trans h.variant, h'.memMap.trans h.memMap, h'.inputs.trans h.inputs, fun hs => h'.mem (h.mem hs),
    fun hs => h'.stored (h.stored hs), fun hs => h'.lock (h.lock hs)⟩

theorem storedOk_insertStored {l : List Nat} (h : l.Pairwise (· < ·) ∧ ∀ a ∈ l, a % 4 = 0 ∧ a < 2 ^ 32) (a : Word) :
    (insertStored l (wordBase a)).Pairwise (· < ·) ∧ ∀ b ∈ insertStored l (wordBase a), b % 4 = 0 ∧ b < 2 ^ 32 := by
  obtain ⟨hrising, hwords⟩ := h
  refine ⟨insertStored_pairwise hrising _, fun b hb => ?_⟩
  obtain rfl | hb := (mem_insertStored ..).mp hb
  · exact ⟨wordBase_mod_four a, wordBase_lt a⟩
  · exact hwords b hb

section Carries
variable (s : State)

theorem State.carries_refl : s.Carries s := State.carries_of_same rfl rfl rfl rfl rfl rfl

theorem State.carries_setX (i : RegNum) (v : Word) : s.Carries (s.setX i v) :=
  State.carries_of_same (by simp) (by simp) (by simp) (by simp) (by simp) (by simp)

theorem State.carries_setCpsr (p : Cpsr) : s.Carries (s.setCpsr p) := State.carries_of_same rfl rfl rfl rfl rfl rfl

theorem State.carries_setSpsrOf (b : Bank) (p : Psr) : s.Carries (s.setSpsrOf b p) :=
  State.carries_of_same (by simp) (by simp) (by cases b <;> rfl) (by simp) (by simp) (by simp)

theorem State.carries_drawn (n : Nat) : s.Carries (s.drawn n) := State.carries_of_same rfl rfl rfl rfl rfl rfl

theorem State.carries_setCoproc (p : RegNum) (c : Coproc) : s.Carries (s.setCoproc p c) :=
  State.carries_of_same rfl rfl rfl rfl rfl rfl

theorem State.carries_writeBackIf (wb : Bool) (rn : RegNum) (v : Word) : s.Carries (s.writeBackIf wb rn v) :=
  State.carries_of_same (by simp) (by simp) (by simp) (by simp) (by simp) (by simp)

theorem State.carries_abortBase (wb : Bool) (rn : RegNum) (v : Word) : s.Carries (s.abortBase wb rn v) :=
  State.carries_of_same (by simp) (by simp) (by simp) (by simp) (by simp) (by simp)

theorem State.carries_writeRegs (userBank : Bool) (l : List (RegNum × Word)) : s.Carries (s.writeRegs userBank l) :=
  State.carries_of_same (by simp) (by simp) (by simp) (by simp) (by simp) (by simp)

theorem State.carries_storeWord (a v : Word) : s.Carries (s.storeWord a v) :=
  ⟨rfl, rfl, rfl, fun h => Memory.wf_writeMemWord h a v, fun h => storedOk_insertStored h a, id⟩

theorem State.carries_storeByte (a : Word) (v : Byte) : s.Carries (s.storeByte a v) :=
  ⟨rfl, rfl, rfl, fun h => Memory.wf_writeMem h a.isLt v, fun h => storedOk_insertStored h a, id⟩

theorem State.carries_storeWords (l : List (Word × Word)) : s.Carries (s.storeWords l) := by
  induction l generalizing s with
  | nil => exact s.carries_refl
  | cons x l ih => exact (s.carries_storeWord x.1 x.2).trans (ih _)

/-- A jump empties the stored words or leaves them. -/
theorem State.carries_jump (a : Word) : s.Carries (s.jump a) := by
  refine ⟨rfl, rfl, rfl, id, fun h => ?_, id⟩
  rw [State.StoredOk, State.jump_storedWords]
  cases s.variant.isUncached with
  | false => exact h
  | true => exact ⟨.nil, fun _ h => nomatch h⟩

theorem State.carries_takeException (k : Exc) (ret : Word) : s.Carries (s.takeException k ret) := by
  have hstored : (s.takeException k ret).storedWords = (s.jump k.vector).storedWords := by simp
  refine ⟨by simp, by simp, by simp, fun h => ?_, fun h => ?_, fun h => by simpa using h⟩
  · rwa [State.MemOk, State.takeException_mem]
  · rw [State.StoredOk, hstored]
    exact (s.carries_jump k.vector).stored h

/-- The words that a swap stores while LOCK is high, and LOCK low again. -/
theorem State.carries_swapped {store : State → State} (h : ∀ u : State, u.Carries (store u)) :
    s.Carries ((store (s.setLock true)).setLock false) := by
  obtain ⟨hvariant, hmemMap, hinputs, hmem, hstored, -⟩ := h (s.setLock true)
  exact ⟨hvariant, hmemMap, hinputs, hmem, hstored, fun _ => rfl⟩

end Carries

/-! ### The pc and the mode -/

theorem State.pcOk_iff {s : State} : s.PcOk ↔ s.pc.toNat % 4 = 0 ∧ (s.is26 = true → s.pc.toNat < 2 ^ 26) := by
  rw [State.PcOk, ← isAligned_iff, isAligned, beq_iff_eq, ← above64M_eq_false_iff, above64M, bne_eq_false_iff_eq]

theorem and_mask_mod_four {v mask : Word} (h : mask.extractLsb' 0 2 = 0#2) : (v &&& mask).toNat % 4 = 0 := by
  rw [← isAligned_iff, isAligned, BitVec.extractLsb'_and, h, BitVec.and_zero, beq_self_eq_true]

theorem and_pcMask26_lt (v : Word) : (v &&& 0x03FFFFFC#32).toNat < 2 ^ 26 :=
  lt_of_le_of_lt (BitVec.toNat_and .. ▸ Nat.and_le_right) (by decide)

theorem State.pcTop_mod_four (s : State) : s.pcTop.extractLsb' 0 2 = 0#2 := by
  unfold State.pcTop
  cases s.is26 <;> decide

/-- The pc after stepping on, short of the top of the range. -/
theorem State.PcOk.add_four {s : State} (h : s.PcOk) (htop : s.pc ≠ s.pcTop) :
    (s.pc + 4).toNat % 4 = 0 ∧ (s.is26 = true → (s.pc + 4).toNat < 2 ^ 26) := by
  obtain ⟨haligned, hrange⟩ := State.pcOk_iff.mp h
  refine ⟨by bv_omega, fun h26 => ?_⟩
  have hlt := hrange h26
  rw [State.pcTop, h26, if_pos rfl] at htop
  bv_omega

/-- I, F and the mode of `q` are those of `p`. -/
def Cpsr.SameControl (p q : Cpsr) : Prop := q.i = p.i ∧ q.f = p.f ∧ q.mode = p.mode

/-- A status `q` that user mode may come to from `p` without an exception (60_exceptions.md R363, R381). -/
def Cpsr.Confines (p q : Cpsr) : Prop := p.mode.isPrivileged = false → p.SameControl q

theorem Cpsr.sameControl_of_eq {p q : Cpsr} (h : q = p) : p.SameControl q := h ▸ ⟨rfl, rfl, rfl⟩

theorem Cpsr.sameControl_setLogical (p : Cpsr) (res : Word) (c : Bool) : p.SameControl (p.setLogical res c) := ⟨rfl, rfl, rfl⟩

theorem Cpsr.sameControl_setArith (p : Cpsr) (o : AluOut) : p.SameControl (p.setArith o) := ⟨rfl, rfl, rfl⟩

theorem Cpsr.confines_writePsr26 (p : Cpsr) (v : Word) : p.Confines (p.writePsr26 v) := by
  intro huser
  obtain ⟨-, -, -, -, -, hkept⟩ := p.wrotePsr26_writePsr26 v
  exact hkept huser

theorem Mode.is26_of26 (b : BitVec 2) : (Mode.of26 b).is26 = true := by
  revert b
  decide

theorem Cpsr.is26_writePsr26 {p : Cpsr} (h : p.mode.is26 = true) (v : Word) : (p.writePsr26 v).mode.is26 = true := by
  unfold Cpsr.writePsr26
  cases p.mode.isPrivileged with
  | false => exact h
  | true => exact Mode.is26_of26 _

theorem Exc.is26_mode (k : Exc) (v : Variant) : (k.mode v).is26 = !v.isArm6Plus := by cases k <;> cases v <;> rfl

theorem Exc.vector_in_range (k : Exc) : k.vector.toNat % 4 = 0 ∧ k.vector.toNat < 2 ^ 26 := by cases k <;> decide

/-! ### The ways in which an instruction ends -/

/-- `t` is a state that the rules of every step allow after `s`. -/
structure State.Leads (s t : State) : Prop where
  carries : s.Carries t
  pc : s.PcOk → t.PcOk
  mode : s.ModeOk → t.ModeOk
  user : s.isPrivileged = false →
    s.cpsr.SameControl t.cpsr ∨ ∃ k : Exc, t.pc = k.vector ∧ t.cpsr.i = true ∧ t.cpsr.mode = k.mode s.variant

section Ends
variable {s u t : State}

/-- Stepping on; the mode may have changed. -/
theorem State.Carries.leads_of_advance (h : s.Carries u) (hrange : u.is26 = true → s.is26 = true ∨ above64M (s.pc + 4) = false)
    (hmode : s.ModeOk → u.ModeOk) (huser : s.cpsr.Confines u.cpsr) (hnext : s.advanceFrom u = .next t) : s.Leads t := by
  obtain ⟨htop, rfl⟩ := State.advanceFrom_eq_next.mp hnext
  refine ⟨h.trans (State.carries_of_same rfl rfl rfl rfl rfl rfl), fun hpc => State.pcOk_iff.mpr ?pc, hmode, fun hu => .inl (huser hu)⟩
  case pc =>
    obtain ⟨haligned, hlt⟩ := hpc.add_four htop
    refine ⟨haligned, fun h26 => ?_⟩
    obtain hs26 | habove := hrange h26
    · exact hlt hs26
    · exact (above64M_eq_false_iff _).mp habove

/-- Stepping on with I, F and the mode as they were. -/
theorem State.Carries.leads_of_advance_same (h : s.Carries u) (hcontrol : s.cpsr.SameControl u.cpsr)
    (hnext : s.advanceFrom u = .next t) : s.Leads t := by
  have hmode : u.cpsr.mode = s.cpsr.mode := by
    obtain ⟨-, -, hmode⟩ := hcontrol
    exact hmode
  refine h.leads_of_advance (fun h26 => .inl ?_) (fun hs => ?_) (fun _ => hcontrol) hnext
  · rwa [State.is26, ← hmode]
  · rwa [State.ModeOk, h.variant, State.is26, hmode]

/-- A failed condition. -/
theorem State.leads_of_failed (hnext : s.advanceFrom s = .next t) : s.Leads t :=
  s.carries_refl.leads_of_advance_same (Cpsr.sameControl_of_eq rfl) hnext

/-- An exception entry, whatever was written before it. -/
theorem State.Carries.leads_takeException (h : s.Carries u) (k : Exc) (ret : Word) : s.Leads (u.takeException k ret) := by
  refine ⟨h.trans (u.carries_takeException k ret), fun _ => State.pcOk_iff.mpr ?pc, fun _ => ?mode, fun _ => .inr ⟨k, ?user⟩⟩
  case pc =>
    obtain ⟨haligned, hlt⟩ := k.vector_in_range
    rw [State.takeException_pc]
    exact ⟨haligned, fun _ => hlt⟩
  case mode =>
    intro hv
    rw [State.takeException_variant] at hv
    rw [State.is26, State.takeException_cpsr, Exc.is26_mode, hv, Bool.not_false]
  case user => rw [State.takeException_pc, State.takeException_cpsr, h.variant]; exact ⟨rfl, rfl, rfl⟩

theorem State.Carries.leads_dataAbort (h : s.Carries u) (hnext : u.dataAbort = .next t) : s.Leads t := by
  obtain rfl := Host.Outcome.next.inj hnext
  exact h.leads_takeException _ _

/-- A jump in the mode of `s`. -/
theorem State.Carries.leads_jump (h : s.Carries u) (hcpsr : u.cpsr = s.cpsr) {a : Word}
    (ha : s.PcOk → a.toNat % 4 = 0 ∧ (s.is26 = true → a.toNat < 2 ^ 26)) : s.Leads (u.jump a) := by
  refine ⟨h.trans (u.carries_jump a), fun hpc => State.pcOk_iff.mpr ?pc, fun hs => ?mode, fun _ => .inl (Cpsr.sameControl_of_eq hcpsr)⟩
  case pc => rw [State.is26, State.jump_cpsr, hcpsr]; exact ha hpc
  case mode => rwa [State.ModeOk, State.jump_variant, h.variant, State.is26, State.jump_cpsr, hcpsr]

theorem State.Carries.leads_writePc (h : s.Carries u) (hcpsr : u.cpsr = s.cpsr) (v : Word) : s.Leads (u.writePc v) := by
  rw [State.writePc_eq_jump]
  refine h.leads_jump hcpsr fun _ => ⟨and_mask_mod_four u.pcTop_mod_four, fun h26 => ?_⟩
  rw [State.pcTop, State.is26, hcpsr, if_pos h26]
  exact and_pcMask26_lt v

/-- `WritePC_PSR` in a 26-bit mode stays in one; `RestoreCPSR` happens on `arm6plus` alone, out of a privileged mode, and checks the
new pc. -/
theorem State.Carries.leads_returnTo (h : s.Carries u) (hcpsr : u.cpsr = s.cpsr) {v : Word} (hnext : u.returnTo v = .next t) :
    s.Leads t := by
  obtain ⟨h26, rfl⟩ | ⟨h32, hrestore⟩ := State.returnTo_eq_next.mp hnext
  · refine ⟨h.trans ((u.carries_setCpsr _).trans (State.carries_jump _ _)), fun _ => State.pcOk_iff.mpr ?pc, fun _ _ => ?mode,
      fun hu => .inl ?user⟩
    case pc => exact ⟨and_mask_mod_four (by decide), fun _ => and_pcMask26_lt v⟩
    case mode => exact Cpsr.is26_writePsr26 h26 v
    case user => rw [State.writePcPsr_cpsr, hcpsr]; exact s.cpsr.confines_writePsr26 v hu
  · obtain ⟨p, m, hp, -, habove, rfl⟩ := State.restoreCpsr_eq_next.mp hrestore
    refine ⟨h.trans ((u.carries_jump _).trans (State.carries_setCpsr _ _)), fun _ => State.pcOk_iff.mpr ?pc, fun hs hv => ?mode,
      fun hu => ?user⟩
    case pc =>
      refine ⟨?_, fun hm => (above64M_eq_false_iff _).mp (habove hm)⟩
      rw [State.setCpsr_pc, State.writePc_pc_of_32 h32]
      exact and_mask_mod_four (by decide)
    case mode =>
      rw [State.setCpsr_variant, State.writePc_variant, h.variant] at hv
      rw [State.is26, hcpsr] at h32
      exact absurd (h32.symm.trans (hs hv)) (by decide)
    case user =>
      rw [State.isPrivileged, ← hcpsr] at hu
      exact absurd (hp.symm.trans (State.spsr_eq_none_iff.mpr hu)) (Option.some_ne_none p)

theorem State.Carries.leads_undefinedTrap (h : s.Carries u) (hnext : u.undefinedTrap = .next t) : s.Leads t := by
  obtain rfl := Host.Outcome.next.inj hnext
  exact h.leads_takeException _ _

/-- What holds of a condition that fails holds of the whole instruction once it holds of its body. -/
theorem State.leads_of_whenPassed {c : Cond} {body : Result} (hbody : body = .next t → s.Leads t)
    (hnext : s.whenPassed c body = .next t) : s.Leads t := by
  obtain ⟨-, h⟩ | ⟨-, h⟩ := State.whenPassed_eq_next.mp hnext
  · exact hbody h
  · exact State.leads_of_failed h

/-! ### The instructions by family -/

theorem State.leads_writeResult {sf : Bool} {rd : RegNum} {res : Word} {p : Cpsr} (hp : s.cpsr.SameControl p)
    (hnext : s.writeResult sf rd res p = .next t) : s.Leads t := by
  obtain ⟨-, -, h⟩ | ⟨-, -, rfl⟩ | ⟨-, h⟩ := State.writeResult_eq_next.mp hnext
  · exact s.carries_refl.leads_returnTo rfl h
  · exact s.carries_refl.leads_writePc rfl res
  · cases sf with
    | false => exact (s.carries_setX rd res).leads_of_advance_same (Cpsr.sameControl_of_eq (s.setX_cpsr rd res)) h
    | true => exact ((s.carries_setX rd res).trans (State.carries_setCpsr _ p)).leads_of_advance_same hp h

section DataProc
variable {c : Cond} {sf : Bool} {rd rn sbz : RegNum} {op2 : Op2}

theorem logicalOp_leads {f : Word → Word → Word} (hnext : logicalOp f c sf rd rn op2 s = .next t) : s.Leads t := by
  obtain ⟨-, h⟩ | ⟨-, -, h⟩ := logicalOp_eq_next.mp hnext
  · exact State.leads_of_failed h
  · exact State.leads_writeResult (s.cpsr.sameControl_setLogical ..) h

theorem arithOp_leads {f : Word → Word → Bool → AluOut} (hnext : arithOp f c sf rd rn op2 s = .next t) : s.Leads t := by
  obtain ⟨-, h⟩ | ⟨-, -, h⟩ := arithOp_eq_next.mp hnext
  · exact State.leads_of_failed h
  · exact State.leads_writeResult (s.cpsr.sameControl_setArith _) h

theorem moveOp_leads {f : Word → Word} (hnext : moveOp f c sf rd sbz op2 s = .next t) : s.Leads t := by
  obtain ⟨-, h⟩ | ⟨-, -, -, h⟩ := moveOp_eq_next.mp hnext
  · exact State.leads_of_failed h
  · exact State.leads_writeResult (s.cpsr.sameControl_setLogical ..) h

theorem mov_leads (hnext : execMov c sf rd sbz op2 s = .next t) : s.Leads t := moveOp_leads hnext

theorem mvn_leads (hnext : execMvn c sf rd sbz op2 s = .next t) : s.Leads t := moveOp_leads hnext

theorem testOp_leads {f : Word → Word → Word} (hnext : testOp f c sbz rn op2 s = .next t) : s.Leads t := by
  obtain ⟨-, h⟩ | ⟨-, -, -, h⟩ := testOp_eq_next.mp hnext
  · exact State.leads_of_failed h
  · exact (s.carries_setCpsr _).leads_of_advance_same (s.cpsr.sameControl_setLogical ..) h

theorem compareOp_leads {f : Word → Word → Bool → AluOut} (hnext : compareOp f c sbz rn op2 s = .next t) : s.Leads t := by
  obtain ⟨-, h⟩ | ⟨-, -, -, h⟩ := compareOp_eq_next.mp hnext
  · exact State.leads_of_failed h
  · exact (s.carries_setCpsr _).leads_of_advance_same (s.cpsr.sameControl_setArith _) h

theorem pFormOp_leads {f : Word → Word → Word} (hnext : pFormOp f c rn op2 s = .next t) : s.Leads t := by
  obtain ⟨-, h⟩ | ⟨-, -, h26, h⟩ := pFormOp_eq_next.mp hnext
  · exact State.leads_of_failed h
  · exact (s.carries_setCpsr _).leads_of_advance (fun _ => .inl h26) (fun _ _ => Cpsr.is26_writePsr26 h26 _)
      (s.cpsr.confines_writePsr26 _) h

theorem cmpp_leads (hnext : execCmpp c rn op2 s = .next t) : s.Leads t := pFormOp_leads hnext

theorem cmnp_leads (hnext : execCmnp c rn op2 s = .next t) : s.Leads t := pFormOp_leads hnext

end DataProc

theorem State.sameControl_setMulFlags (hcpsr : u.cpsr = s.cpsr) (res : Word) :
    s.cpsr.SameControl (u.setMulFlags res).cpsr := by
  rw [State.setMulFlags_cpsr, hcpsr]
  exact ⟨rfl, rfl, rfl⟩

theorem State.sameControl_setMullFlags (hcpsr : u.cpsr = s.cpsr) (res : BitVec 64) :
    s.cpsr.SameControl (u.setMullFlags res).cpsr := by
  rw [State.setMullFlags_cpsr, hcpsr]
  exact ⟨rfl, rfl, rfl⟩

theorem State.leads_writeProduct {sf : Bool} {rd : RegNum} {res : Word} (hnext : s.writeProduct sf rd res = .next t) : s.Leads t := by
  have hcarries := s.carries_setX rd res
  have hcpsr := s.setX_cpsr rd res
  cases sf with
  | false => exact hcarries.leads_of_advance_same (Cpsr.sameControl_of_eq hcpsr) hnext
  | true =>
    exact (hcarries.trans ((State.carries_setCpsr _ _).trans (State.carries_drawn _ 1))).leads_of_advance_same
      (State.sameControl_setMulFlags hcpsr res) hnext

theorem longMultiply_leads {c : Cond} {sf : Bool} {rh rl rs rm : RegNum} {p : BitVec 64}
    (hnext : longMultiply c sf rh rl rs rm p s = .next t) : s.Leads t := by
  obtain ⟨-, h⟩ | ⟨-, -, -, h⟩ := longMultiply_eq_next.mp hnext
  · exact State.leads_of_failed h
  have hcarries := (s.carries_setX rl (p.extractLsb' 0 32)).trans (State.carries_setX _ rh (p.extractLsb' 32 32))
  have hcpsr : ((s.setX rl (p.extractLsb' 0 32)).setX rh (p.extractLsb' 32 32)).cpsr = s.cpsr := by simp
  cases sf with
  | false => exact hcarries.leads_of_advance_same (Cpsr.sameControl_of_eq hcpsr) h
  | true =>
    exact (hcarries.trans ((State.carries_setCpsr _ _).trans (State.carries_drawn _ 2))).leads_of_advance_same
      (State.sameControl_setMullFlags hcpsr p) h

theorem mul_leads {c : Cond} {sf : Bool} {rd rn rs rm : RegNum} (hnext : execMul c sf rd rn rs rm s = .next t) : s.Leads t := by
  refine State.leads_of_whenPassed (fun h => ?_) hnext
  split_ifs at h
  exact State.leads_writeProduct h

theorem mla_leads {c : Cond} {sf : Bool} {rd rn rs rm : RegNum} (hnext : execMla c sf rd rn rs rm s = .next t) : s.Leads t := by
  refine State.leads_of_whenPassed (fun h => ?_) hnext
  split_ifs at h
  exact State.leads_writeProduct h

section Transfer
variable {byte : Bool} {c : Cond} {ix : Indexing} {up : Bool} {rn rd : RegNum} {off : Offset} {priv : Priv}

theorem loadSingle_leads (hnext : loadSingle byte c ix up rn rd off priv s = .next t) : s.Leads t := by
  have hbase := s.carries_writeBackIf (writesBack ix) rn (s.transferIdx up rn off)
  have hcpsr := s.writeBackIf_cpsr (writesBack ix) rn (s.transferIdx up rn off)
  obtain ⟨-, h⟩ | ⟨-, -, h⟩ | ⟨-, -, v, -, ⟨-, rfl⟩ | ⟨-, h⟩⟩ := loadSingle_eq_next hnext
  · exact State.leads_of_failed h
  · exact (s.carries_abortBase ..).leads_dataAbort h
  · exact hbase.leads_writePc hcpsr v
  · exact (hbase.trans (State.carries_setX _ rd v)).leads_of_advance_same
      (Cpsr.sameControl_of_eq ((State.setX_cpsr ..).trans hcpsr)) h

theorem State.carries_storeSingleAt (addr : Word) : s.Carries (s.storeSingleAt byte rd addr) := by
  cases byte with
  | false => exact s.carries_storeWord ..
  | true => exact s.carries_storeByte ..

theorem State.storeSingleAt_cpsr (addr : Word) : (s.storeSingleAt byte rd addr).cpsr = s.cpsr := by cases byte <;> rfl

theorem storeSingle_leads (hnext : storeSingle byte c ix up rn rd off priv s = .next t) : s.Leads t := by
  obtain ⟨-, h⟩ | ⟨-, -, h⟩ | ⟨-, -, h⟩ := storeSingle_eq_next hnext
  · exact State.leads_of_failed h
  · exact (s.carries_abortBase ..).leads_dataAbort h
  · exact ((State.carries_storeSingleAt _).trans (State.carries_writeBackIf ..)).leads_of_advance_same
      (Cpsr.sameControl_of_eq ((State.writeBackIf_cpsr ..).trans (State.storeSingleAt_cpsr _))) h

end Transfer

section Block
variable {m : BlockMode} {c : Cond} {hat wb : Bool} {rn : RegNum} {list : BitVec 16}

theorem loadBlock_leads (hnext : loadBlock m c hat wb rn list s = .next t) : s.Leads t := by
  obtain ⟨-, h⟩ | ⟨-, -, habort | ⟨vals, hloaded⟩⟩ := loadBlock_eq_next hnext
  · exact State.leads_of_failed h
  · exact (((s.carries_abortBase ..).trans (State.carries_writeRegs ..)).trans (State.carries_drawn _ _)).leads_dataAbort habort
  have hcarries := (s.carries_writeBackIf wb rn (s.blockWb m rn list)).trans
    (State.carries_writeRegs _ (usesUserBank true hat list) ((listRegs list).zip vals))
  have hcpsr := (State.writeRegs_cpsr (usesUserBank true hat list) ((listRegs list).zip vals) _).trans
    (s.writeBackIf_cpsr wb rn (s.blockWb m rn list))
  obtain ⟨-, -, h⟩ | ⟨-, -, rfl⟩ | ⟨-, h⟩ := State.loadedBlock_eq_next.mp hloaded
  · exact hcarries.leads_returnTo hcpsr h
  · exact hcarries.leads_writePc hcpsr _
  · exact hcarries.leads_of_advance_same (Cpsr.sameControl_of_eq hcpsr) h

theorem State.carries_blockStored (stores : List (Word × Word)) : s.Carries (s.blockStored hat wb rn list stores) :=
  (s.carries_storeWords stores).trans (State.carries_drawn _ _)

theorem State.blockStored_cpsr (stores : List (Word × Word)) : (s.blockStored hat wb rn list stores).cpsr = s.cpsr :=
  State.storeWords_cpsr stores s

theorem storeBlock_leads (hnext : storeBlock m c hat wb rn list s = .next t) : s.Leads t := by
  obtain ⟨-, h⟩ | ⟨-, -, stores, h | h⟩ := storeBlock_eq_next hnext
  · exact State.leads_of_failed h
  · exact ((State.carries_blockStored stores).trans (State.carries_abortBase ..)).leads_dataAbort h
  · exact ((State.carries_blockStored stores).trans (State.carries_writeBackIf ..)).leads_of_advance_same
      (Cpsr.sameControl_of_eq ((State.writeBackIf_cpsr ..).trans (State.blockStored_cpsr stores))) h

end Block

theorem swi_leads {c : Cond} {y : BitVec 24} (hnext : execSwi c y s = .next t) : s.Leads t := by
  refine State.leads_of_whenPassed (fun h => ?_) hnext
  obtain rfl := Host.Outcome.next.inj h
  exact s.carries_refl.leads_takeException _ _

theorem undefined_leads {w : Word} (hnext : execUndefined w s = .next t) : s.Leads t :=
  State.leads_of_whenPassed s.carries_refl.leads_undefinedTrap hnext

section Branch
variable {c : Cond} {o : BitVec 24}

/-- The destination is a word address because the instruction's own address is one. -/
theorem State.PcOk.branchTarget (h : s.PcOk) (o : BitVec 24) :
    (s.branchTarget o).toNat % 4 = 0 ∧ (s.is26 = true → (s.branchTarget o).toNat < 2 ^ 26) := by
  obtain ⟨haligned, -⟩ := State.pcOk_iff.mp h
  have hsum : (s.pc + 8#32 + 4#32 * o.signExtend 32).toNat % 4 = 0 := by
    generalize o.signExtend 32 = d
    bv_omega
  unfold State.branchTarget
  cases h26 : s.is26 with
  | false => exact ⟨hsum, fun h => nomatch h⟩
  | true =>
    simp only [if_true, toNat_and_mask26]
    omega

theorem b_leads (hnext : execB c o s = .next t) : s.Leads t := by
  refine State.leads_of_whenPassed (fun h => ?_) hnext
  obtain rfl := Host.Outcome.next.inj h
  exact s.carries_refl.leads_jump rfl fun hpc => hpc.branchTarget o

theorem bl_leads (hnext : execBl c o s = .next t) : s.Leads t := by
  refine State.leads_of_whenPassed (fun h => ?_) hnext
  obtain rfl := Host.Outcome.next.inj h
  exact (s.carries_setX 14#4 _).leads_jump (s.setX_cpsr 14#4 _) fun hpc => hpc.branchTarget o

end Branch

section Coproc
variable {c : Cond} {p : RegNum} {w : Word}

theorem State.leads_of_withResponder {body : Coproc → Result} (hbody : ∀ st, body st = .next t → s.Leads t)
    (hnext : s.withResponder p w body = .next t) : s.Leads t := by
  obtain ⟨-, rfl⟩ | ⟨st, -, h⟩ := State.withResponder_eq_next.mp hnext
  · exact s.carries_refl.leads_takeException _ _
  · exact hbody st h

theorem cdp_leads {o : BitVec 4} {crn crd crm : RegNum} {q : BitVec 3} (hnext : execCdp c o crn crd p q crm s = .next t) :
    s.Leads t :=
  State.leads_of_whenPassed (State.leads_of_withResponder fun _ h =>
    (s.carries_setCoproc p _).leads_of_advance_same (Cpsr.sameControl_of_eq rfl) h) hnext

theorem mcr_leads {o q : BitVec 3} {crn rd crm : RegNum} (hnext : execMcr c o crn rd p q crm s = .next t) : s.Leads t := by
  refine State.leads_of_whenPassed (fun h => ?_) hnext
  split_ifs at h
  exact State.leads_of_withResponder
    (fun _ h => (s.carries_setCoproc p _).leads_of_advance_same (Cpsr.sameControl_of_eq rfl) h) h

theorem mrc_leads {o q : BitVec 3} {crn rd crm : RegNum} (hnext : execMrc c o crn rd p q crm s = .next t) : s.Leads t := by
  refine State.leads_of_whenPassed (State.leads_of_withResponder fun st h => ?_) hnext
  have hcarries := s.carries_setCoproc p (Config.coprocMrcState p (encode (.mrc c o crn rd p q crm)) st)
  dsimp only at h
  split_ifs at h
  · refine (hcarries.trans (State.carries_setCpsr _ _)).leads_of_advance_same ?_ h
    exact ⟨rfl, rfl, rfl⟩
  · exact (hcarries.trans (State.carries_setX _ rd _)).leads_of_advance_same (Cpsr.sameControl_of_eq (State.setX_cpsr ..)) h

section CoprocTransfer
variable {ix : Indexing} {up long : Bool} {rn crd : RegNum} {o : BitVec 8}

theorem ldc_leads (hnext : execLdc c ix up long rn crd p o s = .next t) : s.Leads t := by
  refine State.leads_of_whenPassed (State.leads_of_withResponder fun st h => ?_) hnext
  obtain ⟨-, -, -, h⟩ := State.checkedCoproc_eq_next.mp h
  dsimp only at h
  split at h
  · exact (s.carries_abortBase ..).leads_dataAbort h
  · exact ((s.carries_writeBackIf ..).trans (State.carries_setCoproc _ p _)).leads_of_advance_same
      (Cpsr.sameControl_of_eq (s.writeBackIf_cpsr ..)) h

theorem stc_leads (hnext : execStc c ix up long rn crd p o s = .next t) : s.Leads t := by
  refine State.leads_of_whenPassed (State.leads_of_withResponder fun st h => ?_) hnext
  obtain ⟨-, -, -, h⟩ := State.checkedCoproc_eq_next.mp h
  dsimp only at h
  split at h
  · exact ((s.carries_storeWords _).trans (State.carries_abortBase ..)).leads_dataAbort h
  · exact (((s.carries_storeWords _).trans (State.carries_writeBackIf ..)).trans
      (State.carries_setCoproc _ p _)).leads_of_advance_same
      (Cpsr.sameControl_of_eq ((State.writeBackIf_cpsr ..).trans (State.storeWords_cpsr _ s))) h

end CoprocTransfer
end Coproc

section Swap
variable {c : Cond} {rn rd rm : RegNum}

theorem swapAt_leads {size : AccessSize} {addr : Word} {load : State → Word} {store : State → State}
    (hstore : ∀ u : State, u.Carries (store u)) (hcpsr : ∀ u : State, (store u).cpsr = u.cpsr)
    (hnext : swapAt size rd addr load store s = .next t) : s.Leads t := by
  obtain ⟨-, h | h⟩ := swapAt_eq_next hnext
  · exact (s.carries_swapped State.carries_refl).leads_dataAbort h
  · exact ((s.carries_swapped hstore).trans (State.carries_setX _ rd _)).leads_of_advance_same
      (Cpsr.sameControl_of_eq ((State.setX_cpsr ..).trans (hcpsr (s.setLock true)))) h

theorem swp_leads (hnext : execSwp c rn rd rm s = .next t) : s.Leads t := by
  refine State.leads_of_whenPassed (fun h => ?_) hnext
  dsimp only at h
  split_ifs at h
  exact swapAt_leads (fun u => u.carries_storeWord ..) (fun _ => rfl) h

theorem swpb_leads (hnext : execSwpb c rn rd rm s = .next t) : s.Leads t := by
  refine State.leads_of_whenPassed (fun h => ?_) hnext
  dsimp only at h
  split_ifs at h
  exact swapAt_leads (fun u => u.carries_storeByte ..) (fun _ => rfl) h

end Swap

section StatusTransfer
variable {c : Cond} {spsr : Bool} {part : PsrPart} {v : Word}

theorem State.leads_readPsr {rd : RegNum} {p : Psr} (hnext : s.readPsr rd p = .next t) : s.Leads t :=
  ((s.carries_setX rd _).trans (State.carries_drawn _ 1)).leads_of_advance_same (Cpsr.sameControl_of_eq (s.setX_cpsr ..)) hnext

theorem mrs_leads {rd : RegNum} (hnext : execMrs c spsr rd s = .next t) : s.Leads t := by
  refine State.leads_of_whenPassed (fun h => ?_) hnext
  split_ifs at h
  · split at h
    · cases h
    · exact State.leads_readPsr h
  · exact State.leads_readPsr h

/-- MSR exists on `arm6plus` only, where every mode does; a 26-bit mode that it comes to finds the next pc in range. -/
theorem State.leads_writePsr (hv : s.variant.isArm6Plus = true) (hnext : s.writePsr spsr part v = .next t) : s.Leads t := by
  obtain ⟨-, p, -, h⟩ | ⟨-, q, hq, habove, h⟩ := State.writePsr_eq_next hnext
  · exact (s.carries_setSpsrOf _ _).leads_of_advance_same (Cpsr.sameControl_of_eq (State.setSpsrOf_cpsr ..)) h
  · obtain ⟨-, -, -, hkept⟩ := Cpsr.wroteFields_of_writeFields hq
    refine (s.carries_setCpsr q).leads_of_advance (fun h26 => .inr (habove h26)) (fun _ hv' => ?_) (fun hu => hkept ?_) h
    · exact absurd (hv.symm.trans hv') (by decide)
    · rintro ⟨-, hpriv⟩
      exact absurd (hpriv.symm.trans hu) (by decide)

theorem msrReg_leads {rm : RegNum} (hv : s.variant.isArm6Plus = true) (hnext : execMsrReg c spsr part rm s = .next t) :
    s.Leads t := by
  refine State.leads_of_whenPassed (fun h => ?_) hnext
  split_ifs at h
  exact State.leads_writePsr hv h

theorem msrImm_leads {r : BitVec 4} {b : BitVec 8} (hv : s.variant.isArm6Plus = true)
    (hnext : execMsrImm c spsr part r b s = .next t) : s.Leads t :=
  State.leads_of_whenPassed (State.leads_writePsr hv) hnext

end StatusTransfer

end Ends

/-! ### The step -/

/-- Every instruction of the processor. -/
theorem exec_leads {i : Instr} {s t : State} (hwf : WellFormed s.variant i = true) (hnext : exec i s = .next t) : s.Leads t := by
  cases i with
  | and | eor | orr | bic => exact logicalOp_leads hnext
  | sub | rsb | add | adc | sbc | rsc => exact arithOp_leads hnext
  | mov => exact mov_leads hnext
  | mvn => exact mvn_leads hnext
  | tst | teq => exact testOp_leads hnext
  | cmp | cmn => exact compareOp_leads hnext
  | tstp | teqp => exact pFormOp_leads hnext
  | cmpp => exact cmpp_leads hnext
  | cmnp => exact cmnp_leads hnext
  | b => exact b_leads hnext
  | bl => exact bl_leads hnext
  | mul _ _ _ rn => exact mul_leads (rn := rn) hnext
  | mla => exact mla_leads hnext
  | umull | umlal | smull | smlal => exact longMultiply_leads hnext
  | ldr | ldrb | ldrt | ldrbt => exact loadSingle_leads hnext
  | str | strb | strt | strbt => exact storeSingle_leads hnext
  | ldmia | ldmib | ldmda | ldmdb => exact loadBlock_leads hnext
  | stmia | stmib | stmda | stmdb => exact storeBlock_leads hnext
  | swi _ y => exact swi_leads (y := y) hnext
  | cdp => exact cdp_leads hnext
  | ldc => exact ldc_leads hnext
  | stc => exact stc_leads hnext
  | mcr => exact mcr_leads hnext
  | mrc => exact mrc_leads hnext
  | swp => exact swp_leads hnext
  | swpb => exact swpb_leads hnext
  | mrs => exact mrs_leads hnext
  | msrReg => exact msrReg_leads hwf hnext
  | msrImm => exact msrImm_leads hwf hnext
  | undefined w => exact undefined_leads hnext
  | unallocated w => cases hnext

/-! ### The reset input (70_reset_and_hazards.md R400) -/

section ResetInput
variable (s : State)

theorem State.resetInput_variant : s.resetInput.variant = s.variant := by unfold State.resetInput; split <;> rfl

theorem State.resetInput_memMap : s.resetInput.memMap = s.memMap := by unfold State.resetInput; split <;> rfl

theorem State.resetInput_inputs : s.resetInput.inputs = s.inputs := by unfold State.resetInput; split <;> rfl

theorem State.resetInput_mem : s.resetInput.mem = s.mem := by unfold State.resetInput; split <;> rfl

theorem State.resetInput_storedWords : s.resetInput.storedWords = (s.jump 0#32).storedWords := by
  unfold State.resetInput; split <;> rfl

theorem State.resetInput_regs : s.resetInput.regs = (s.setPhys .r14Svc (s.anyWord 0)).regs := by
  unfold State.resetInput; split <;> rfl

theorem State.resetInput_cpsr :
    s.resetInput.cpsr = ⟨s.anyBit 0, s.anyBit 1, s.anyBit 2, s.anyBit 3, true, true, Exc.reset.mode s.variant⟩ := by
  unfold State.resetInput; split <;> rfl

/-- Memory is not written, and the pc, I and the mode are those of the exception Reset. -/
theorem State.leads_resetInput : s.Leads s.resetInput := by
  refine ⟨⟨s.resetInput_variant, s.resetInput_memMap, s.resetInput_inputs, fun h => ?mem, fun h => ?stored, fun _ => rfl⟩,
    fun _ => State.pcOk_iff.mpr ⟨rfl, fun _ => Nat.two_pow_pos 26⟩, fun _ hv => ?mode, fun _ => .inr ⟨.reset, rfl, ?user⟩⟩
  case mem => rwa [State.MemOk, State.resetInput_mem]
  case stored =>
    rw [State.StoredOk, State.resetInput_storedWords]
    exact (s.carries_jump 0#32).stored h
  case mode =>
    rw [State.resetInput_variant] at hv
    rw [State.is26, State.resetInput_cpsr, Exc.is26_mode, hv, Bool.not_false]
  case user => rw [State.resetInput_cpsr]; exact ⟨rfl, rfl⟩

end ResetInput

/-- Every step, in terms of the state with its sample of the inputs taken. -/
theorem step_leads {s t : State} (hnext : step s = .next t) : s.inputsTaken.Leads t := by
  obtain rfl | ⟨-, rfl⟩ | ⟨-, rfl⟩ | rfl | hexec := step_eq_next hnext
  · exact State.leads_resetInput _
  · exact (State.carries_refl _).leads_takeException _ _
  · exact (State.carries_refl _).leads_takeException _ _
  · exact (State.carries_refl _).leads_takeException _ _
  · obtain ⟨hwf, -⟩ := encodeOfDecode s.variant (s.wordAt s.pc)
    exact exec_leads hwf hexec

/-- Settles O57: the invariant looks at nothing that taking a sample of the inputs changes. -/
theorem stepKeepsInvariant : Obligations.StepKeepsInvariant := by
  unfold Obligations.StepKeepsInvariant
  rintro s t ⟨hpc, hmode, hmem, hstored, hlock⟩ hnext
  have h := step_leads hnext
  exact ⟨h.pc hpc, h.mode hmode, h.carries.mem hmem, h.carries.stored hstored, h.carries.lock hlock⟩

/-- Settles O58: user mode is the one mode that is not privileged. -/
theorem userModeIsConfined : Obligations.UserModeIsConfined := by
  unfold Obligations.UserModeIsConfined
  intro s t huser hnext
  refine (step_leads hnext).user ?_
  rw [State.isPrivileged, State.inputsTaken_cpsr, Mode.isPrivileged, huser]
  rfl

/-- Settles O59: the sample is spent before anything else is done. -/
theorem parametersAreFixed : Obligations.ParametersAreFixed := by
  unfold Obligations.ParametersAreFixed
  intro s t hnext
  obtain ⟨hvariant, hmemMap, hinputs, -⟩ := (step_leads hnext).carries
  exact ⟨hvariant, hmemMap, hinputs⟩

/-! ### Reset -/

theorem step_of_reset {s : State} (h : s.inputsNow.reset = true) : step s = .next s.inputsTaken.resetInput :=
  step_of_due_entered (by rw [State.due, if_pos h])

/-- Of the SPSRs only that of SVC mode can be written, and on `arm6plus` alone. -/
theorem State.resetInput_spsrs (s : State) : s.resetInput.spsrFiq = s.spsrFiq ∧ s.resetInput.spsrIrq = s.spsrIrq ∧
    s.resetInput.spsrAbt = s.spsrAbt ∧ s.resetInput.spsrUnd = s.spsrUnd ∧
    (s.variant.isArm6Plus = false → s.resetInput.spsrSvc = s.spsrSvc) := by
  unfold State.resetInput
  cases s.variant.isArm6Plus with
  | false => exact ⟨rfl, rfl, rfl, rfl, fun _ => rfl⟩
  | true => exact ⟨rfl, rfl, rfl, rfl, fun h => nomatch h⟩

/-- Settles O8, from the field lemmas of the reset input; R14_SVC is the one register it writes. -/
theorem resetInputOverrides : Obligations.ResetInputOverrides := by
  unfold Obligations.ResetInputOverrides
  intro s hreset
  obtain ⟨hfiq, hirq, habt, hund, hsvc⟩ := s.inputsTaken.resetInput_spsrs
  refine ⟨_, step_of_reset hreset, rfl, ?i, ?f, ?mode, fun q hq => ?regs, fun a => ?bytes, hfiq, hirq, habt, hund, hsvc,
    State.resetInput_variant _, State.resetInput_memMap _⟩
  case i | f => rw [State.resetInput_cpsr]
  case mode => rw [State.resetInput_cpsr]; rfl
  case regs =>
    have hne : PhysReg.r14Svc ≠ q := fun h => hq 14#4 (List.mem_singleton_self _) (congrArg some h)
    rw [State.phys_congr (State.resetInput_regs _), State.phys_setPhys, if_neg hne]
    rfl
  case bytes => rw [State.byteAt, State.resetInput_mem]; rfl

/-- Settles O55: the fields of `State.resetOn`. -/
theorem resetState : Obligations.ResetState := by
  unfold Obligations.ResetState
  refine ⟨fun v memMap coprocs inputs => ⟨rfl, rfl, rfl, ?mode⟩, rfl⟩
  case mode => cases v <;> rfl

/-- Settles O56: pc 0 is in every range, and `pre6` starts in svc_26. -/
theorem invariantAtReset : Obligations.InvariantAtReset := by
  unfold Obligations.InvariantAtReset
  intro v memMap coprocs inputs
  refine ⟨State.pcOk_iff.mpr ⟨rfl, fun _ => Nat.two_pow_pos 26⟩, fun hv => ?mode, rfl, ⟨.nil, fun _ h => nomatch h⟩, rfl⟩
  case mode =>
    change v.isArm6Plus = false at hv
    rw [State.is26, State.resetOn, hv]
    rfl

/-! ### The stored word and the run -/

theorem wordBase_eq (a : Word) : wordBase a = a.toNat / 4 * 4 := by
  have hshift : a &&& 0xFFFFFFFC#32 = (a >>> 2) <<< 2 := by
    apply BitVec.eq_of_getLsbD_eq
    intro i hi
    interval_cases i <;> simp
  have ha := a.isLt
  rw [wordBase, hshift, BitVec.toNat_shiftLeft, BitVec.toNat_ushiftRight, Nat.shiftRight_eq_div_pow, Nat.shiftLeft_eq]
  omega

/-- Settles O9: with no request and no abort, the look at the stored words decides. -/
theorem storedWordIsRefused : Obligations.StoredWordIsRefused := by
  unfold Obligations.StoredWordIsRefused
  intro s hreset hfiq hirq habort hstored
  rw [← wordBase_eq] at hstored
  have hdue : s.due = .stop .selfModifyingCode := by
    rw [State.due_of_no_request hreset hfiq hirq, if_neg (Bool.eq_false_iff.mp habort),
      if_pos (List.contains_iff_mem.mpr hstored)]
  rw [step, hdue]

/-- `t` is the first state from `s` on of which `e` holds, and at most `n` steps away. -/
def EndsWithin (e : State → Bool) (n : Nat) (s t : State) : Prop :=
  e t = true ∧ ∃ k ≤ n, StepsTo k s t ∧ ∀ j < k, ∀ u, StepsTo j s u → e u = false

section EndsWithin
variable {e : State → Bool} {n : Nat} {s t : State}

theorem endsWithin_of_end (h : e s = true) : EndsWithin e n s t ↔ s = t := by
  constructor
  · rintro ⟨-, k, -, hsteps, hfirst⟩
    cases k with
    | zero => exact hsteps
    | succ k => exact absurd (h.symm.trans (hfirst 0 k.succ_pos s rfl)) (by decide)
  · rintro rfl
    exact ⟨h, 0, n.zero_le, rfl, fun _ hj => absurd hj (Nat.not_lt_zero _)⟩

theorem not_endsWithin_zero (h : e s = false) : ¬ EndsWithin e 0 s t := by
  rintro ⟨hend, k, hk, hsteps, -⟩
  obtain rfl := Nat.le_zero.mp hk
  obtain rfl : s = t := hsteps
  exact absurd (h.symm.trans hend) (by decide)

/-- Where the run has not ended it takes a step, and the end is one step nearer. -/
theorem endsWithin_succ (h : e s = false) : EndsWithin e (n + 1) s t ↔ ∃ u, step s = .next u ∧ EndsWithin e n u t := by
  constructor
  · rintro ⟨hend, k, hk, hsteps, hfirst⟩
    cases k with
    | zero =>
      obtain rfl : s = t := hsteps
      exact absurd (h.symm.trans hend) (by decide)
    | succ k =>
      obtain ⟨u, hu, hsteps⟩ := hsteps
      exact ⟨u, hu, hend, k, Nat.le_of_succ_le_succ hk, hsteps, fun j hj v hv => hfirst (j + 1) (Nat.succ_lt_succ hj) v ⟨u, hu, hv⟩⟩
  · rintro ⟨u, hu, hend, k, hk, hsteps, hfirst⟩
    refine ⟨hend, k + 1, Nat.succ_le_succ hk, ⟨u, hu, hsteps⟩, fun j hj v hv => ?_⟩
    cases j with
    | zero =>
      obtain rfl : s = v := hv
      exact h
    | succ j =>
      obtain ⟨u', hu', hv⟩ := hv
      obtain rfl := Host.Outcome.next.inj (hu.symm.trans hu')
      exact hfirst j (Nat.lt_of_succ_lt_succ hj) v hv

theorem runUntil_succ_eq_ended (h : e s = false) :
    runUntil e (n + 1) s = .ended t ↔ ∃ u, step s = .next u ∧ runUntil e n u = .ended t := by
  cases hs : step s <;> simp [runUntil, h, hs]

theorem runUntil_eq_ended_iff : runUntil e n s = .ended t ↔ EndsWithin e n s t := by
  induction n generalizing s with
  | zero =>
    cases h : e s with
    | true => rw [runUntil_of_end h, endsWithin_of_end h, Run.ended.injEq]
    | false => simp [runUntil, h, not_endsWithin_zero h]
  | succ n ih =>
    cases h : e s with
    | true => rw [runUntil_of_end h, endsWithin_of_end h, Run.ended.injEq]
    | false => simp only [runUntil_succ_eq_ended h, endsWithin_succ h, ih]

end EndsWithin

/-- Settles O60, by induction on the steps allowed. -/
theorem runEndsWhereAsked : Obligations.RunEndsWhereAsked := by
  unfold Obligations.RunEndsWhereAsked
  exact fun _ _ _ _ => runUntil_eq_ended_iff

end Sys2Proof.Machine
end

section
/-! Conditional execution (40_condition_codes.md R141, R144) and the rest of data processing (41_data_processing.md R152, R163, R164,
R190, R191). -/

namespace Sys2Proof.Machine

/-! ### Conditional execution -/

theorem State.whenPassed_of_failed {s : State} {c : Cond} (h : condPassed s.cpsr c = false) (body : Result) :
    s.whenPassed c body = s.advanceFrom s :=
  if_neg (Bool.eq_false_iff.mp h)

theorem State.advanceFrom_of_ne_top {s : State} (h : s.pc ≠ s.pcTop) (u : State) :
    s.advanceFrom u = .next { u with pc := s.pc + 4 } :=
  if_neg h

theorem State.advanceFrom_of_top {s : State} (h : s.pc = s.pcTop) (u : State) : s.advanceFrom u = .refused .pcWrap :=
  if_pos h

/-- Every instruction that has a condition looks at it before anything else. -/
theorem exec_eq_whenPassed {i : Instr} {c : Cond} (h : conditionOf i = some c) (s : State) :
    ∃ body, exec i s = s.whenPassed c body := by
  cases i with
  | unallocated w => cases h
  | _ => cases h; exact ⟨_, rfl⟩

/-- Settles O11: whatever its body, the instruction only steps on. -/
theorem failedConditionDoesNothing : Obligations.FailedConditionDoesNothing := by
  unfold Obligations.FailedConditionDoesNothing
  intro i c s hi hfailed
  obtain ⟨body, hexec⟩ := exec_eq_whenPassed hi s
  rw [hexec, State.whenPassed_of_failed hfailed]
  exact ⟨fun hpc => State.advanceFrom_of_ne_top hpc s, fun hpc => State.advanceFrom_of_top hpc s⟩

/-! ### The conditions after a compare (40_condition_codes.md R144) -/

/-- The sign of a difference is wrong exactly where it overflows (41_data_processing.md R159). -/
theorem sub_neg_xor_overflow (a b : Word) :
    (decide ((a - b).toInt < 0) != decide (a.toInt - b.toInt < -2 ^ 31 ∨ 2 ^ 31 ≤ a.toInt - b.toInt)) =
      decide (a.toInt < b.toInt) := by
  have ha := a.toInt_lt
  have ha' := a.le_toInt
  have hb := b.toInt_lt
  have hb' := b.le_toInt
  rw [Bool.eq_iff_iff, bne_iff_ne, ne_eq, decide_eq_decide, decide_eq_true_eq, BitVec.toInt_sub, Int.bmod_def]
  split <;> omega

section AfterCompare
variable (p : Cpsr) (a : Word) (sh : Shifted)

theorem sub_flags_z : (DataOp.sub.flags p a sh).z = decide (a = sh.val) := decide_eq_decide.mpr sub_eq_zero

theorem sub_flags_c : (DataOp.sub.flags p a sh).c = decide (sh.val.toNat ≤ a.toNat) := rfl

theorem sub_flags_n_bne_v : ((DataOp.sub.flags p a sh).n != (DataOp.sub.flags p a sh).v) = decide (a.toInt < sh.val.toInt) :=
  sub_neg_xor_overflow a sh.val

theorem sub_flags_n_beq_v : ((DataOp.sub.flags p a sh).n == (DataOp.sub.flags p a sh).v) = decide (sh.val.toInt ≤ a.toInt) := by
  rw [← Bool.not_not (_ == _), ← bne, sub_flags_n_bne_v, ← decide_not, decide_eq_decide, not_lt]

end AfterCompare

theorem exec_cmp_eq_next {c : Cond} {rn : RegNum} {op2 : Op2} {s t : State} (hc : condPassed s.cpsr c = true)
    (hnext : exec (.cmp c 0#4 rn op2) s = .next t) :
    t.cpsr = DataOp.sub.flags s.cpsr (s.readRn rn) (s.shifterOperand op2) := by
  obtain ⟨hfailed, -⟩ | ⟨-, -, -, h⟩ := compareOp_eq_next.mp hnext
  · exact absurd (hc.symm.trans hfailed) (by decide)
  · obtain ⟨-, rfl⟩ := State.advanceFrom_eq_next.mp h
    exact setArith_eq_flags isArith_sub ..

/-- Settles O15: Z tells equality, C the unsigned order and N against V the signed order; the other conditions combine these. -/
theorem conditionsAfterCompare : Obligations.ConditionsAfterCompare := by
  unfold Obligations.ConditionsAfterCompare
  rintro c rn op2 s t ⟨hc, -⟩ hnext
  dsimp only
  rw [exec_cmp_eq_next hc hnext]
  generalize s.readRn rn = a, s.shifterOperand op2 = sh
  simp only [condPassed, sub_flags_z, sub_flags_c, sub_flags_n_bne_v, sub_flags_n_beq_v, ← decide_not, ← Bool.decide_and,
    ← Bool.decide_or, decide_eq_decide, ← BitVec.toNat_inj, true_and]
  have htoInt : a.toInt = sh.val.toInt ↔ a.toNat = sh.val.toNat := by rw [BitVec.toInt_inj, BitVec.toNat_inj]
  omega

/-! ### The P forms (41_data_processing.md R190) -/

section Instructions
variable {c : Cond} {rd rn : RegNum} {op2 : Op2} {s : State}

theorem pFormOp_of_admits {op : TestOp} {f : Word → Word → Word} (hf : ∀ a b, f a b = op.op.value a b s.cpsr.c)
    (hc : condPassed s.cpsr c = true) (h : op.op.Admits rn op2) : pFormOp f c rn op2 s =
      if s.is26 then
        s.advanceFrom (s.setCpsr (s.cpsr.writePsr26 (op.op.value (s.readRn rn) (s.shifterOperand op2).val s.cpsr.c)))
      else .refused .pFormIn32bit := by
  rw [pFormOp, State.whenPassed_of_passed hc, h.r15InRegisterShift_eq_false, if_neg Bool.false_ne_true, hf]

/-- The four P forms, once the condition has passed. -/
theorem exec_pTestOp {op : TestOp} (hc : condPassed s.cpsr c = true) (h : op.op.Admits rn op2) :
    exec (op.pInstr c rn op2) s =
      if s.is26 then
        s.advanceFrom (s.setCpsr (s.cpsr.writePsr26 (op.op.value (s.readRn rn) (s.shifterOperand op2).val s.cpsr.c)))
      else .refused .pFormIn32bit := by
  cases op with
  | tst => exact pFormOp_of_admits (op := .tst) (fun _ _ => rfl) hc h
  | teq => exact pFormOp_of_admits (op := .teq) (fun _ _ => rfl) hc h
  | cmp => exact pFormOp_of_admits (op := .cmp) (f := fun a b => (subResult a b s.cpsr.c).res) (isArith_sub · · _ |>.left) hc h
  | cmn => exact pFormOp_of_admits (op := .cmn) (f := fun a b => (addResult a b s.cpsr.c).res) (isArith_add · · _ |>.left) hc h

/-- Settles O16: in a 26-bit mode the status is what `WritePSR26` makes of the result. -/
theorem pFormsWriteThePsr : Obligations.PFormsWriteThePsr := by
  unfold Obligations.PFormsWriteThePsr
  refine ⟨fun op c rn op2 s hready hadmits h26 => ?writes, fun op c rn op2 s hc hadmits h32 => ?refused⟩
  case writes =>
    obtain ⟨hc, hpc⟩ := hready
    rw [exec_pTestOp hc hadmits, if_pos h26, State.advanceFrom_of_ne_top hpc]
    exact ⟨_, rfl, s.cpsr.wrotePsr26_writePsr26 _, ((s.keeps_refl []).setCpsr _).stepsOn⟩
  case refused => rw [exec_pTestOp hc hadmits, h32, if_neg Bool.false_ne_true]

/-! ### R15 as the destination (41_data_processing.md R163, R164) -/

theorem exec_dataOp_fifteen {op : DataOp} {sf : Bool} (hc : condPassed s.cpsr c = true) (h : op.Admits rn op2) :
    exec (op.instr c sf 15#4 rn op2) s =
      if sf then s.returnTo (op.value (s.readRn rn) (s.shifterOperand op2).val s.cpsr.c)
      else .next (s.jump (op.value (s.readRn rn) (s.shifterOperand op2).val s.cpsr.c &&& s.pcTop)) := by
  rw [exec_dataOp hc h, State.runDataOp, State.writeResult, if_pos rfl, State.writePc_eq_jump]

/-- Settles O17: without S the instruction is a jump to the result. -/
theorem dataProcessingToPc : Obligations.DataProcessingToPc := by
  unfold Obligations.DataProcessingToPc
  intro op c rn op2 s hc hadmits
  rw [exec_dataOp_fifteen hc hadmits, if_neg Bool.false_ne_true]
  exact ⟨_, rfl, (s.keeps_refl []).jumps _, rfl, rfl⟩

/-- Settles O18: with S the instruction is a return form of the result. -/
theorem dataProcessingReturns : Obligations.DataProcessingReturns := by
  unfold Obligations.DataProcessingReturns
  refine ⟨fun op c rn op2 s hc hadmits hret => ?returns, fun op c rn op2 s r hc hadmits hrefused => ?refused⟩
  case returns =>
    rw [exec_dataOp_fifteen hc hadmits, if_pos rfl]
    obtain ⟨p, hnext, hreturned⟩ := State.returnTo_of_canReturn hret
    exact ⟨_, hnext, ((s.keeps_refl []).setCpsr p).jumps _, hreturned⟩
  case refused =>
    rw [exec_dataOp_fifteen hc hadmits, if_pos rfl]
    exact State.returnTo_of_returnRefused hrefused

/-! ### The refusals (41_data_processing.md R152, R191) -/

section Refused
variable {sf : Bool} {sbz rm rc : RegNum} {kind : ShiftKind}

theorem r15InRegisterShift_of_fifteen (h : rn = 15#4 ∨ rm = 15#4 ∨ rc = 15#4) :
    r15InRegisterShift rn (.shiftReg rm kind rc) = true := by
  simpa [r15InRegisterShift, op2ByRegister, op2UsesR15] using h

theorem logicalOp_of_r15 {f : Word → Word → Word} (hc : condPassed s.cpsr c = true) (h : r15InRegisterShift rn op2 = true) :
    logicalOp f c sf rd rn op2 s = .refused .r15WithRegisterShift := by
  rw [logicalOp, State.whenPassed_of_passed hc, if_pos h]

theorem arithOp_of_r15 {f : Word → Word → Bool → AluOut} (hc : condPassed s.cpsr c = true)
    (h : r15InRegisterShift rn op2 = true) : arithOp f c sf rd rn op2 s = .refused .r15WithRegisterShift := by
  rw [arithOp, State.whenPassed_of_passed hc, if_pos h]

theorem moveOp_of_r15 {f : Word → Word} (hc : condPassed s.cpsr c = true) (hsbz : sbz = 0#4) (h : op2UsesR15 op2 = true) :
    moveOp f c sf rd sbz op2 s = .refused .r15WithRegisterShift := by
  rw [moveOp, State.whenPassed_of_passed hc, if_neg (not_not_intro hsbz), if_pos h]

theorem moveOp_of_sbz {f : Word → Word} (hc : condPassed s.cpsr c = true) (hsbz : sbz ≠ 0#4) :
    moveOp f c sf rd sbz op2 s = .refused .shouldBeZero := by
  rw [moveOp, State.whenPassed_of_passed hc, if_pos hsbz]

theorem testOp_of_r15 {f : Word → Word → Word} (hc : condPassed s.cpsr c = true) (h : r15InRegisterShift rn op2 = true) :
    testOp f c 0#4 rn op2 s = .refused .r15WithRegisterShift := by
  rw [testOp, State.whenPassed_of_passed hc, if_neg (not_not_intro rfl), if_pos h]

theorem testOp_of_sbz {f : Word → Word → Word} (hc : condPassed s.cpsr c = true) (hsbz : sbz ≠ 0#4) :
    testOp f c sbz rn op2 s = .refused .shouldBeZero := by
  rw [testOp, State.whenPassed_of_passed hc, if_pos hsbz]

theorem compareOp_of_r15 {f : Word → Word → Bool → AluOut} (hc : condPassed s.cpsr c = true)
    (h : r15InRegisterShift rn op2 = true) : compareOp f c 0#4 rn op2 s = .refused .r15WithRegisterShift := by
  rw [compareOp, State.whenPassed_of_passed hc, if_neg (not_not_intro rfl), if_pos h]

theorem compareOp_of_sbz {f : Word → Word → Bool → AluOut} (hc : condPassed s.cpsr c = true) (hsbz : sbz ≠ 0#4) :
    compareOp f c sbz rn op2 s = .refused .shouldBeZero := by
  rw [compareOp, State.whenPassed_of_passed hc, if_pos hsbz]

theorem pFormOp_of_r15 {f : Word → Word → Word} (hc : condPassed s.cpsr c = true) (h : r15InRegisterShift rn op2 = true) :
    pFormOp f c rn op2 s = .refused .r15WithRegisterShift := by
  rw [pFormOp, State.whenPassed_of_passed hc, if_pos h]

/-- MOV and MVN have no Rn to be R15. -/
theorem exec_dataOp_of_r15 {op : DataOp} (hc : condPassed s.cpsr c = true) (hrn : op.readsRn = false → rn = 0#4)
    (h : rn = 15#4 ∨ rm = 15#4 ∨ rc = 15#4) :
    exec (op.instr c sf rd rn (.shiftReg rm kind rc)) s = .refused .r15WithRegisterShift := by
  have hshift := r15InRegisterShift_of_fifteen (kind := kind) h
  have hop2 (hzero : rn = 0#4) : op2UsesR15 (.shiftReg rm kind rc) = true := by
    subst hzero
    exact hshift
  cases op with
  | and | eor | orr | bic => exact logicalOp_of_r15 hc hshift
  | sub | rsb | add | adc | sbc | rsc => exact arithOp_of_r15 hc hshift
  | mov => exact moveOp_of_r15 (f := fun v => v) hc (hrn rfl) (hop2 (hrn rfl))
  | mvn => exact moveOp_of_r15 (f := fun v => ~~~v) hc (hrn rfl) (hop2 (hrn rfl))

theorem exec_testOp_of_r15 {op : TestOp} (hc : condPassed s.cpsr c = true) (h : r15InRegisterShift rn op2 = true) :
    exec (op.instr c 0#4 rn op2) s = .refused .r15WithRegisterShift := by
  cases op with
  | tst | teq => exact testOp_of_r15 hc h
  | cmp | cmn => exact compareOp_of_r15 hc h

theorem exec_pTestOp_of_r15 {op : TestOp} (hc : condPassed s.cpsr c = true) (h : r15InRegisterShift rn op2 = true) :
    exec (op.pInstr c rn op2) s = .refused .r15WithRegisterShift := by
  cases op with
  | tst | teq => exact pFormOp_of_r15 hc h
  | cmp => exact pFormOp_of_r15 (f := fun a b => (subResult a b s.cpsr.c).res) hc h
  | cmn => exact pFormOp_of_r15 (f := fun a b => (addResult a b s.cpsr.c).res) hc h

theorem exec_dataOp_of_sbz {op : DataOp} (hc : condPassed s.cpsr c = true) (hreads : op.readsRn = false) (hsbz : sbz ≠ 0#4) :
    exec (op.instr c sf rd sbz op2) s = .refused .shouldBeZero := by
  cases op with
  | mov => exact moveOp_of_sbz (f := fun v => v) hc hsbz
  | mvn => exact moveOp_of_sbz (f := fun v => ~~~v) hc hsbz
  | _ => cases hreads

theorem exec_testOp_of_sbz {op : TestOp} (hc : condPassed s.cpsr c = true) (hsbz : sbz ≠ 0#4) :
    exec (op.instr c sbz rn op2) s = .refused .shouldBeZero := by
  cases op with
  | tst | teq => exact testOp_of_sbz hc hsbz
  | cmp | cmn => exact compareOp_of_sbz hc hsbz

end Refused
end Instructions

/-- Settles O19: the two checks of each class, in their order. -/
theorem dataProcessingRefused : Obligations.DataProcessingRefused := by
  unfold Obligations.DataProcessingRefused
  refine ⟨?dataR15, ?testR15, ?dataSbz, ?testSbz⟩
  case dataR15 => exact fun _ _ _ _ _ _ _ _ _ hc hrn h => exec_dataOp_of_r15 hc hrn h
  case testR15 =>
    intro op c rn rm kind rc s hc h
    have hshift := r15InRegisterShift_of_fifteen (kind := kind) h
    exact ⟨exec_testOp_of_r15 hc hshift, exec_pTestOp_of_r15 hc hshift⟩
  case dataSbz => exact fun _ _ _ _ _ _ _ hc hreads hsbz => exec_dataOp_of_sbz hc hreads hsbz
  case testSbz => exact fun _ _ _ _ _ _ hc hsbz => exec_testOp_of_sbz hc hsbz

end Sys2Proof.Machine
end

section
/-! The shifter (41_data_processing.md R153 to R157): each shift as arithmetic on the number that the operand is. -/

namespace Sys2Proof.Machine

/-! ### Bits as arithmetic -/

theorem getLsbD_eq_div (m : Word) (i : Nat) : m.getLsbD i = decide (m.toNat / 2 ^ i % 2 = 1) := by
  rw [← BitVec.testBit_toNat, Nat.testBit_eq_decide_div_mod_eq]

theorem getLsbD_zero_eq_toInt (m : Word) : m.getLsbD 0 = decide (m.toInt % 2 = 1) := by
  rw [getLsbD_eq_div, decide_eq_decide, BitVec.toInt_eq_toNat_cond]
  split <;> omega

theorem toInt_sshiftRight_eq_div (m : Word) (n : Nat) : (m.sshiftRight n).toInt = m.toInt / 2 ^ n := by
  rw [BitVec.toInt_sshiftRight, Int.shiftRight_eq_div_pow]
  norm_cast

/-- Bit i of a signed number is the last one left by its shift to the right. -/
theorem getLsbD_eq_toInt_div (m : Word) {i : Nat} (hi : i < 32) : m.getLsbD i = decide (m.toInt / 2 ^ i % 2 = 1) := by
  rw [← toInt_sshiftRight_eq_div, ← getLsbD_zero_eq_toInt, BitVec.getLsbD_sshiftRight, Nat.add_zero, if_pos hi]
  rfl

/-- The bottom byte of a register (41_data_processing.md R157). -/
theorem toNat_bottomByte (v : Word) : (v.extractLsb' 0 8).toNat = v.toNat % 256 := BitVec.extractLsb'_toNat ..

/-! ### LSL and LSR (41_data_processing.md R153, R154) -/

section Logical
variable (m : Word) {n : Nat} (c : Bool)

theorem toNat_shiftLsl_val (hn : 0 < n) : (shiftLsl m n c).val.toNat = m.toNat * 2 ^ n % 2 ^ 32 := by
  rw [shiftLsl, if_neg hn.ne']
  by_cases hle : n ≤ 31
  · rw [if_pos hle, BitVec.toNat_shiftLeft, Nat.shiftLeft_eq]
  · obtain ⟨k, rfl⟩ := Nat.exists_eq_add_of_le (show 32 ≤ n by omega)
    have hzero : m.toNat * 2 ^ (32 + k) % 2 ^ 32 = 0 := by
      rw [pow_add, Nat.mul_left_comm, Nat.mul_mod_right]
    rw [if_neg hle, hzero]
    split <;> rfl

/-- The last bit shifted out stands above the word in the product. -/
theorem shiftLsl_c (hn : 0 < n) : (shiftLsl m n c).c = decide (m.toNat * 2 ^ n / 2 ^ 32 % 2 = 1) := by
  rw [shiftLsl, if_neg hn.ne']
  by_cases hle : n ≤ 32
  · have hquotient : m.toNat * 2 ^ n / 2 ^ 32 = m.toNat / 2 ^ (32 - n) := by
      have hsplit : 2 ^ 32 = 2 ^ (32 - n) * 2 ^ n := by rw [← pow_add, Nat.sub_add_cancel hle]
      rw [hsplit, Nat.mul_div_mul_right _ _ (Nat.two_pow_pos n)]
    rw [hquotient, ← getLsbD_eq_div]
    by_cases h31 : n ≤ 31
    · rw [if_pos h31]
    · obtain rfl : n = 32 := by omega
      rfl
  · obtain ⟨k, rfl⟩ := Nat.exists_eq_add_of_le (show 33 ≤ n by omega)
    have heven : m.toNat * 2 ^ (33 + k) / 2 ^ 32 % 2 = 0 := by
      rw [show 33 + k = 32 + (1 + k) by omega, pow_add, Nat.mul_left_comm, Nat.mul_div_cancel_left _ (Nat.two_pow_pos 32), pow_add,
        Nat.mul_left_comm, pow_one, Nat.mul_mod_right]
    rw [if_neg (by omega), if_neg (by omega), heven]
    rfl

theorem toNat_shiftLsr_val (hn : 0 < n) : (shiftLsr m n c).val.toNat = m.toNat / 2 ^ n := by
  rw [shiftLsr, if_neg hn.ne']
  by_cases hle : n ≤ 31
  · rw [if_pos hle, BitVec.toNat_ushiftRight, Nat.shiftRight_eq_div_pow]
  · have hzero : m.toNat / 2 ^ n = 0 :=
      Nat.div_eq_of_lt (m.isLt.trans_le (Nat.pow_le_pow_right Nat.two_pos (by omega)))
    rw [if_neg hle, hzero]
    split <;> rfl

theorem shiftLsr_c (hn : 0 < n) : (shiftLsr m n c).c = decide (m.toNat / 2 ^ (n - 1) % 2 = 1) := by
  rw [shiftLsr, if_neg hn.ne', ← getLsbD_eq_div]
  by_cases h31 : n ≤ 31
  · rw [if_pos h31]
  · rw [if_neg h31]
    by_cases h32 : n = 32
    · subst h32
      rfl
    · rw [if_neg h32, BitVec.getLsbD_of_ge _ _ (by omega)]

end Logical

/-- Settles O20: the values and the carries by the range of the amount, the amounts by the two forms. -/
theorem logicalShifts : Obligations.LogicalShifts := by
  unfold Obligations.LogicalShifts
  refine ⟨fun m n c hn _ => ?values, fun m c => ⟨rfl, rfl⟩, fun s rm amount => ⟨rfl, rfl⟩, fun s rm rc => ?byRegister⟩
  case values => exact ⟨toNat_shiftLsl_val m c hn, shiftLsl_c m c hn, toNat_shiftLsr_val m c hn, shiftLsr_c m c hn⟩
  case byRegister =>
    rw [toNat_bottomByte]
    exact ⟨rfl, rfl⟩

/-! ### ASR (41_data_processing.md R155) -/

/-- A quotient by a power of two beyond the range of the number is its sign. -/
theorem toInt_div_two_pow_of_le (m : Word) {n : Nat} (hn : 31 ≤ n) : m.toInt / 2 ^ n = if m.toInt < 0 then -1 else 0 := by
  have hlt := m.toInt_lt
  have hle := m.le_toInt
  have hpow : (2 : Int) ^ 31 ≤ 2 ^ n := pow_le_pow_right₀ (by decide) hn
  split
  · exact Int.ediv_eq_neg_one_of_neg_of_le (by omega) (by omega)
  · exact Int.ediv_eq_zero_of_lt (by omega) (by omega)

section Arithmetic
variable (m : Word) {n : Nat} (c : Bool)

theorem toInt_shiftAsr_val (hn : 0 < n) : (shiftAsr m n c).val.toInt = m.toInt / 2 ^ n := by
  rw [shiftAsr, if_neg hn.ne']
  by_cases h31 : n ≤ 31
  · rw [if_pos h31, toInt_sshiftRight_eq_div]
  · rw [if_neg h31, toInt_div_two_pow_of_le m (by omega), getLsbD_sign]
    by_cases hneg : m.toInt < 0
    · simp [hneg]
    · simp [hneg]

theorem shiftAsr_c (hn : 0 < n) : (shiftAsr m n c).c = decide (m.toInt / 2 ^ (n - 1) % 2 = 1) := by
  rw [shiftAsr, if_neg hn.ne']
  by_cases h31 : n ≤ 31
  · rw [if_pos h31, getLsbD_eq_toInt_div m (by omega)]
  · rw [if_neg h31, toInt_div_two_pow_of_le m (by omega), getLsbD_sign]
    by_cases hneg : m.toInt < 0
    · simp [hneg]
    · simp [hneg]

end Arithmetic

/-- Settles O21: the value and the carry by the range of the amount, the amount by the two forms. -/
theorem arithmeticShift : Obligations.ArithmeticShift := by
  unfold Obligations.ArithmeticShift
  refine ⟨fun m n c hn _ => ?values, fun m c => rfl, fun s rm amount => rfl, fun s rm rc => ?byRegister⟩
  case values => exact ⟨toInt_shiftAsr_val m c hn, shiftAsr_c m c hn⟩
  case byRegister =>
    rw [toNat_bottomByte]
    rfl

/-! ### ROR and RRX (41_data_processing.md R156) -/

theorem getLsbD_rotateRight_eq_mod (m : Word) {n i : Nat} (hi : i < 32) :
    (m.rotateRight n).getLsbD i = m.getLsbD ((i + n) % 32) := by
  rw [BitVec.getLsbD_rotateRight]
  by_cases hlow : i < 32 - n % 32
  · rw [decide_eq_true hlow, cond_true]
    congr 1
    omega
  · rw [decide_eq_false hlow, cond_false, decide_eq_true hi, Bool.true_and]
    congr 1
    omega

section Rotate
variable (m : Word) {n : Nat} (c : Bool)

theorem getLsbD_shiftRor_val (hn : 0 < n) {i : Nat} (hi : i < 32) :
    (shiftRor m n c).val.getLsbD i = m.getLsbD ((i + n) % 32) := by
  rw [shiftRor, if_neg hn.ne']
  by_cases hwhole : n % 32 = 0
  · rw [if_pos hwhole]
    congr 1
    omega
  · rw [if_neg hwhole, getLsbD_rotateRight_eq_mod m hi, Nat.add_mod_mod]

/-- The carry is the bit that ends at the top. -/
theorem shiftRor_c (hn : 0 < n) : (shiftRor m n c).c = (shiftRor m n c).val.getLsbD 31 := by
  rw [getLsbD_shiftRor_val m c hn (by decide), shiftRor, if_neg hn.ne']
  by_cases hwhole : n % 32 = 0
  · rw [if_pos hwhole]
    exact congrArg m.getLsbD (by omega)
  · rw [if_neg hwhole]
    exact congrArg m.getLsbD (by omega)

theorem toNat_shiftRrx_val : (shiftRrx m c).val.toNat = m.toNat / 2 + 2 ^ 31 * c.toNat := by
  have hlow : (m.extractLsb' 1 31).toNat = m.toNat / 2 := by
    have hm := m.isLt
    rw [BitVec.extractLsb'_toNat, Nat.shiftRight_eq_div_pow]
    omega
  have hlt := (m.extractLsb' 1 31).isLt
  rw [shiftRrx, BitVec.toNat_append, ← Nat.shiftLeft_add_eq_or_of_lt hlt, hlow, Nat.shiftLeft_eq, BitVec.toNat_ofBool]
  omega

end Rotate

/-- Settles O22: the rotation bit by bit, RRX as a number, the amount by the two forms. -/
theorem rotations : Obligations.Rotations := by
  unfold Obligations.Rotations
  refine ⟨fun m n c hn _ => ?values, fun m c => rfl, fun m c => ?rrx, fun s rm amount => rfl, fun s rm rc => ?byRegister⟩
  case values => exact ⟨fun i hi => getLsbD_shiftRor_val m c hn hi, shiftRor_c m c hn⟩
  case rrx =>
    refine ⟨toNat_shiftRrx_val m c, ?_⟩
    rw [shiftRrx, getLsbD_eq_div, pow_zero, Nat.div_one]
  case byRegister =>
    rw [toNat_bottomByte]
    rfl

end Sys2Proof.Machine
end

section
/-! The multiplies (43_multiply.md R210 to R221): what they compute as integers, and the restrictions. -/

namespace Sys2Proof.Machine

/-! ### Common to what steps on -/

theorem State.spsrOf_drawn (s : State) (n : Nat) (b : Bank) : (s.drawn n).spsrOf b = s.spsrOf b := by cases b <;> rfl

theorem State.Keeps.drawn {s u : State} {regs : List RegNum} (h : s.Keeps u regs) (n : Nat) : s.Keeps (u.drawn n) regs := by
  obtain ⟨hsystem, hspsrs, hbytes, hstored, hregs⟩ := h
  exact ⟨hsystem, fun b => (State.spsrOf_drawn u n b).trans (hspsrs b), hbytes, hstored, hregs⟩

/-- A read of a register other than R15 looks at the registers and at the bank. -/
theorem State.x_congr {s t : State} {i : RegNum} (hi : i ≠ 15#4) (hregs : t.regs = s.regs) (hmode : t.cpsr.mode = s.cpsr.mode) :
    t.x i = s.x i := by
  rw [State.x, State.bankReg_congr_of_ne hregs _ _ hi, hmode, State.x]

section Multiply
variable {c : Cond} {sf : Bool} {rd rn rs rm : RegNum} {s : State}

/-! ### MUL and MLA (43_multiply.md R211 to R214) -/

theorem exec_mul_of_passed (hc : condPassed s.cpsr c = true) : exec (.mul c sf rd rn rs rm) s =
    if rd = rm then .refused .mulRdEqualsRm
    else if rd = 15#4 ∨ rm = 15#4 ∨ rs = 15#4 then .refused .mulR15
    else s.writeProduct sf rd (s.x rm * s.x rs) :=
  State.whenPassed_of_passed hc _

theorem exec_mla_of_passed (hc : condPassed s.cpsr c = true) : exec (.mla c sf rd rn rs rm) s =
    if rd = rm then .refused .mulRdEqualsRm
    else if rd = 15#4 ∨ rm = 15#4 ∨ rs = 15#4 ∨ rn = 15#4 then .refused .mulR15
    else s.writeProduct sf rd (s.x rm * s.x rs + s.x rn) :=
  State.whenPassed_of_passed hc _

theorem exec_mul_of_admits (hc : condPassed s.cpsr c = true) (hne : rd ≠ rm) (hrd : rd ≠ 15#4) (hrm : rm ≠ 15#4)
    (hrs : rs ≠ 15#4) : exec (.mul c sf rd rn rs rm) s = s.writeProduct sf rd (s.x rm * s.x rs) := by
  rw [exec_mul_of_passed hc, if_neg hne, if_neg (by tauto)]

theorem exec_mla_of_admits (hc : condPassed s.cpsr c = true) (hne : rd ≠ rm) (hrd : rd ≠ 15#4) (hrm : rm ≠ 15#4)
    (hrs : rs ≠ 15#4) (hrn : rn ≠ 15#4) :
    exec (.mla c sf rd rn rs rm) s = s.writeProduct sf rd (s.x rm * s.x rs + s.x rn) := by
  rw [exec_mla_of_passed hc, if_neg hne, if_neg (by tauto)]

/-- The product is written and the instruction steps on; with S, C alone of the flags is free. -/
theorem State.writeProduct_stepsOn (hpc : s.pc ≠ s.pcTop) (hrd : rd ≠ 15#4) (res : Word) :
    ∃ t, s.writeProduct sf rd res = .next t ∧ s.StepsOn t [rd] ∧ t.x rd = res ∧ (sf = false → t.cpsr = s.cpsr) ∧
      (sf = true → t.cpsr = { s.cpsr with n := (t.x rd).getLsbD 31, z := decide (t.x rd = 0#32), c := t.cpsr.c }) := by
  have hkeeps := s.keeps_setX (List.mem_singleton_self rd) res
  have hcpsr := s.setX_cpsr rd res
  have hmode : (s.setX rd res).cpsr.mode = s.cpsr.mode := congrArg Cpsr.mode hcpsr
  refine ⟨_, State.advanceFrom_of_ne_top hpc _, ?_⟩
  cases sf with
  | false =>
    exact ⟨hkeeps.stepsOn, State.x_of_regs_setX hrd rfl hmode, fun _ => hcpsr, fun h => nomatch h⟩
  | true =>
    have hx : State.x { (s.setX rd res).setMulFlags res with pc := s.pc + 4 } rd = res :=
      State.x_of_regs_setX hrd rfl hmode
    refine ⟨((hkeeps.setCpsr _).drawn 1).stepsOn, hx, fun h => (nomatch h), fun _ => ?_⟩
    rw [if_pos rfl, hx, ← beq_eq_decide]
    exact (State.setMulFlags_cpsr ..).trans (by rw [hcpsr]; rfl)

end Multiply

/-- Settles O26: the 32-bit product and sum are those of the integers, wrapped. -/
theorem multiplyResult : Obligations.MultiplyResult := by
  unfold Obligations.MultiplyResult
  rintro c sf rd rn rs rm s ⟨hc, hpc⟩ hne hrd hrm hrs
  refine ⟨?mul, fun hrn => ?mla⟩
  case mul =>
    rw [exec_mul_of_admits hc hne hrd hrm hrs]
    obtain ⟨t, hnext, hsteps, hx, hflags⟩ := State.writeProduct_stepsOn (sf := sf) hpc hrd (s.x rm * s.x rs)
    exact ⟨t, hnext, hsteps, by rw [hx, BitVec.toNat_mul], hflags⟩
  case mla =>
    rw [exec_mla_of_admits hc hne hrd hrm hrs hrn]
    obtain ⟨t, hnext, hsteps, hx, hflags⟩ := State.writeProduct_stepsOn (sf := sf) hpc hrd (s.x rm * s.x rs + s.x rn)
    exact ⟨t, hnext, hsteps, by rw [hx, BitVec.toNat_add, BitVec.toNat_mul, Nat.mod_add_mod], hflags⟩

/-! ### The long multiplies (43_multiply.md R216 to R221) -/

theorem productU_eq_ofInt (a b : Word) : productU a b = BitVec.ofInt 64 (a.toNat * b.toNat) := by
  rw [BitVec.ofInt_mul, BitVec.ofInt_natCast, BitVec.ofInt_natCast, BitVec.ofNat_toNat, BitVec.ofNat_toNat]
  rfl

theorem productS_eq_ofInt (a b : Word) : productS a b = BitVec.ofInt 64 (a.toInt * b.toInt) := (BitVec.ofInt_mul ..).symm

theorem append_eq_ofInt (hi lo : Word) : hi ++ lo = BitVec.ofInt 64 (hi.toNat * 2 ^ 32 + lo.toNat) := by
  apply BitVec.eq_of_toNat_eq
  have hhi := hi.isLt
  have hlo := lo.isLt
  have hint := intCast_toNat_ofInt (w := 64) (hi.toNat * 2 ^ 32 + lo.toNat)
  rw [BitVec.toNat_append, ← Nat.shiftLeft_add_eq_or_of_lt hlo, Nat.shiftLeft_eq]
  omega

/-- What each of the four long multiplies multiplies and adds, as an integer (43_multiply.md R215 to R219). -/
def State.IsLongProduct (s : State) (i : Instr) (c : Cond) (sf : Bool) (rh rl rs rm : RegNum) (p : Int) : Prop :=
  (i = .umull c sf rh rl rs rm ∧ p = (s.x rm).toNat * (s.x rs).toNat) ∨
  (i = .umlal c sf rh rl rs rm ∧ p = (s.x rm).toNat * (s.x rs).toNat + (s.x rh).toNat * 2 ^ 32 + (s.x rl).toNat) ∨
  (i = .smull c sf rh rl rs rm ∧ p = (s.x rm).toInt * (s.x rs).toInt) ∨
  (i = .smlal c sf rh rl rs rm ∧ p = (s.x rm).toInt * (s.x rs).toInt + (s.x rh).toNat * 2 ^ 32 + (s.x rl).toNat)

section LongMultiply
variable {i : Instr} {c : Cond} {sf : Bool} {rh rl rs rm : RegNum} {s : State} {p : Int}

theorem State.IsLongProduct.exec_eq (h : s.IsLongProduct i c sf rh rl rs rm p) :
    exec i s = longMultiply c sf rh rl rs rm (BitVec.ofInt 64 p) s := by
  obtain ⟨rfl, rfl⟩ | ⟨rfl, rfl⟩ | ⟨rfl, rfl⟩ | ⟨rfl, rfl⟩ := h
  · rw [← productU_eq_ofInt]
    rfl
  · rw [Int.add_assoc, BitVec.ofInt_add, ← productU_eq_ofInt, ← append_eq_ofInt]
    rfl
  · rw [← productS_eq_ofInt]
    rfl
  · rw [Int.add_assoc, BitVec.ofInt_add, ← productS_eq_ofInt, ← append_eq_ofInt]
    rfl

/-- Each of the four stands for some product. -/
theorem exists_isLongProduct (s : State)
    (hi : i ∈ [Instr.umull c sf rh rl rs rm, .umlal c sf rh rl rs rm, .smull c sf rh rl rs rm, .smlal c sf rh rl rs rm]) :
    ∃ p, s.IsLongProduct i c sf rh rl rs rm p := by
  simp only [List.mem_cons, List.not_mem_nil, or_false] at hi
  obtain rfl | rfl | rfl | rfl := hi
  · exact ⟨_, .inl ⟨rfl, rfl⟩⟩
  · exact ⟨_, .inr (.inl ⟨rfl, rfl⟩)⟩
  · exact ⟨_, .inr (.inr (.inl ⟨rfl, rfl⟩))⟩
  · exact ⟨_, .inr (.inr (.inr ⟨rfl, rfl⟩))⟩

/-- The state of a long multiply that has written Rl and then Rh. -/
def State.longWritten (s : State) (rh rl : RegNum) (q : BitVec 64) : State :=
  (s.setX rl (q.extractLsb' 0 32)).setX rh (q.extractLsb' 32 32)

theorem longMultiply_of_passed (hc : condPassed s.cpsr c = true) (q : BitVec 64) : longMultiply c sf rh rl rs rm q s =
    if rh = 15#4 ∨ rl = 15#4 ∨ rm = 15#4 ∨ rs = 15#4 then .refused .mullR15
    else if rh = rl ∨ rh = rm ∨ rl = rm then .refused .mullRegOverlap
    else s.advanceFrom (if sf then (s.longWritten rh rl q).setMullFlags q else s.longWritten rh rl q) :=
  State.whenPassed_of_passed hc _

/-- A long multiply past its restrictions. -/
theorem State.IsLongProduct.exec_of_admits (h : s.IsLongProduct i c sf rh rl rs rm p) (hc : condPassed s.cpsr c = true)
    (hrh : rh ≠ 15#4) (hrl : rl ≠ 15#4) (hrm : rm ≠ 15#4) (hrs : rs ≠ 15#4) (hhl : rh ≠ rl) (hhm : rh ≠ rm) (hlm : rl ≠ rm) :
    exec i s = s.advanceFrom (if sf then (s.longWritten rh rl (BitVec.ofInt 64 p)).setMullFlags (BitVec.ofInt 64 p)
      else s.longWritten rh rl (BitVec.ofInt 64 p)) := by
  rw [h.exec_eq, longMultiply_of_passed hc, if_neg (by tauto), if_neg (by tauto)]

theorem State.longWritten_cpsr (s : State) (rh rl : RegNum) (q : BitVec 64) : (s.longWritten rh rl q).cpsr = s.cpsr :=
  (State.setX_cpsr ..).trans (State.setX_cpsr ..)

theorem State.keeps_longWritten (s : State) (rh rl : RegNum) (q : BitVec 64) : s.Keeps (s.longWritten rh rl q) [rh, rl] :=
  (s.keeps_setX (by simp) _).trans (congrArg Cpsr.mode (State.setX_cpsr ..)) (State.keeps_setX _ (by simp) _)

/-- The two registers hold the halves of the 64 bits. -/
theorem State.x_longWritten {t : State} {q : BitVec 64} (hrh : rh ≠ 15#4) (hrl : rl ≠ 15#4) (hhl : rh ≠ rl)
    (hregs : t.regs = (s.longWritten rh rl q).regs) (hmode : t.cpsr.mode = s.cpsr.mode) :
    t.x rh = q.extractLsb' 32 32 ∧ t.x rl = q.extractLsb' 0 32 := by
  have hmode' : t.cpsr.mode = (s.longWritten rh rl q).cpsr.mode := hmode.trans (congrArg Cpsr.mode (s.longWritten_cpsr ..)).symm
  rw [State.x_congr hrh hregs hmode', State.x_congr hrl hregs hmode', State.longWritten, State.x_setX _ _ _ _ hrh, if_pos rfl,
    State.x_setX _ _ _ _ hrh, if_neg hhl, State.x_setX _ _ _ _ hrl, if_pos rfl]
  exact ⟨rfl, rfl⟩

theorem toNat_halves (q : BitVec 64) : (q.extractLsb' 32 32).toNat * 2 ^ 32 + (q.extractLsb' 0 32).toNat = q.toNat := by
  have hq := q.isLt
  rw [BitVec.extractLsb'_toNat, BitVec.extractLsb'_toNat, Nat.shiftRight_eq_div_pow, Nat.shiftRight_zero]
  omega

theorem getLsbD_upperHalf (q : BitVec 64) : (q.extractLsb' 32 32).getLsbD 31 = q.getLsbD 63 := by simp

theorem beq_zero_eq_toNat (q : BitVec 64) : (q == 0#64) = decide ((q.toNat : Int) = 0) := by
  rw [beq_eq_decide, decide_eq_decide, ← BitVec.toNat_inj, Int.natCast_eq_zero]
  rfl

end LongMultiply

/-- Settles O27: the 64 bits are the integer wrapped, whose halves the two registers hold. -/
theorem longMultiplyResult : Obligations.LongMultiplyResult := by
  unfold Obligations.LongMultiplyResult
  rintro i c sf rh rl rs rm s p ⟨hc, hpc⟩ hrh hrl hrm hrs hhl hhm hlm hproduct
  rw [State.IsLongProduct.exec_of_admits hproduct hc hrh hrl hrm hrs hhl hhm hlm, State.advanceFrom_of_ne_top hpc,
    ← intCast_toNat_ofInt]
  generalize BitVec.ofInt 64 p = q
  have hkeeps := s.keeps_longWritten rh rl q
  have hcpsr := s.longWritten_cpsr rh rl q
  have hmode : (s.longWritten rh rl q).cpsr.mode = s.cpsr.mode := congrArg Cpsr.mode hcpsr
  have hhalves : ((q.extractLsb' 32 32).toNat * 2 ^ 32 + (q.extractLsb' 0 32).toNat : Int) = q.toNat := by
    exact_mod_cast toNat_halves q
  refine ⟨_, rfl, ?_⟩
  cases sf with
  | false =>
    obtain ⟨hh, hl⟩ := State.x_longWritten (t := { s.longWritten rh rl q with pc := s.pc + 4 }) hrh hrl hhl rfl hmode
    refine ⟨hkeeps.stepsOn, ?_, fun _ => hcpsr, fun h => nomatch h⟩
    rw [if_neg Bool.false_ne_true, hh, hl, hhalves]
  | true =>
    obtain ⟨hh, hl⟩ := State.x_longWritten (t := { (s.longWritten rh rl q).setMullFlags q with pc := s.pc + 4 }) hrh hrl hhl rfl hmode
    refine ⟨((hkeeps.setCpsr _).drawn 2).stepsOn, ?_, fun h => (nomatch h), fun _ => ?_⟩
    · rw [if_pos rfl, hh, hl, hhalves]
    · rw [if_pos rfl, hh, getLsbD_upperHalf, ← beq_zero_eq_toNat]
      exact (State.setMullFlags_cpsr ..).trans (by rw [hcpsr]; rfl)

/-- Settles O28: the checks of each instruction, in their order. -/
theorem multiplyRefused : Obligations.MultiplyRefused := by
  unfold Obligations.MultiplyRefused
  intro c sf rd rn rs rm s hc
  refine ⟨fun h => ⟨?_, ?_⟩, fun hne h => ?_, fun hne h => ?_, fun i hi => ?_⟩
  · rw [exec_mul_of_passed hc, if_pos h]
  · rw [exec_mla_of_passed hc, if_pos h]
  · rw [exec_mul_of_passed hc, if_neg hne, if_pos h]
  · rw [exec_mla_of_passed hc, if_neg hne, if_pos h]
  · obtain ⟨p, hp⟩ := exists_isLongProduct s hi
    rw [hp.exec_eq, longMultiply_of_passed hc]
    exact ⟨fun h => if_pos (by tauto), fun hnot h => (if_neg (by tauto)).trans (if_pos h)⟩

end Sys2Proof.Machine
end

section
/-! The single data transfers (44_single_data_transfer.md R230 to R248): their checks, loads, stores and aborts. -/

namespace Sys2Proof.Machine

/-! ### The checks (44_single_data_transfer.md R245, 20_memory.md R71, R74) -/

theorem writesBack_iff {ix : Indexing} : writesBack ix = true ↔ ix ≠ .pre := by cases ix <;> decide

/-- The register that an offset reads. -/
def offsetReg : Offset → Option RegNum
  | .imm _ => none
  | .shifted rm _ _ => some rm

theorem transferRefusal_eq (byte : Bool) (ix : Indexing) (rn rd : RegNum) (off : Offset) :
    transferRefusal byte ix rn rd off =
      if offsetReg off = some 15#4 then some .sdtRmR15
      else if rn = 15#4 ∧ writesBack ix then some .sdtWritebackR15
      else if byte ∧ rd = 15#4 then some .sdtByteR15
      else if offsetReg off = some rn ∧ ix = .post then some .sdtPostindexRnEqualsRm
      else if rd = rn ∧ writesBack ix then some .sdtRdEqualsRnWriteback
      else none := by
  cases off <;> rfl

section Checks
variable {byte tForm : Bool} {ix : Indexing} {rn rd : RegNum} {off : Offset}

theorem TransferAdmits.post (h : TransferAdmits byte tForm ix rn rd off) (ht : tForm = true) : ix = .post := h.left ht

theorem TransferAdmits.base_ne (h : TransferAdmits byte tForm ix rn rd off) (hix : ix ≠ .pre) : rn ≠ 15#4 ∧ rd ≠ rn := by
  obtain ⟨-, hbase, -⟩ := h
  exact hbase hix

theorem TransferAdmits.transferRefusal (h : TransferAdmits byte tForm ix rn rd off) :
    transferRefusal byte ix rn rd off = none := by
  obtain ⟨-, hbase, hbyte, hoff⟩ := h
  have hreg {r : RegNum} (hr : offsetReg off = some r) : r ≠ 15#4 ∧ (ix = .post → r ≠ rn) := by
    cases off with
    | imm o => cases hr
    | shifted rm kind amount =>
      cases hr
      exact hoff _ kind amount rfl
  have hrm : ¬ offsetReg off = some 15#4 := fun h => (hreg h).left rfl
  have hwb : ¬ (rn = 15#4 ∧ writesBack ix) := fun ⟨hrn, hix⟩ => (hbase (writesBack_iff.mp hix)).left hrn
  have hbyteRd : ¬ (byte ∧ rd = 15#4) := fun ⟨hb, hrd⟩ => hbyte hb hrd
  have hpost : ¬ (offsetReg off = some rn ∧ ix = .post) := fun ⟨h, hix⟩ => (hreg h).right hix rfl
  have hrd : ¬ (rd = rn ∧ writesBack ix) := fun ⟨hrd, hix⟩ => (hbase (writesBack_iff.mp hix)).right hrd
  rw [transferRefusal_eq, if_neg hrm, if_neg hwb, if_neg hbyteRd, if_neg hpost, if_neg hrd]

/-- The five restrictions are all there is to admission. -/
theorem transferAdmits_of_transferRefusal (hpost : tForm = true → ix = .post)
    (h : transferRefusal byte ix rn rd off = none) : TransferAdmits byte tForm ix rn rd off := by
  rw [transferRefusal_eq] at h
  split_ifs at h with hrm hwb hbyte hpostRm hrd
  refine ⟨hpost, fun hix => ⟨fun hrn => hwb ⟨hrn, writesBack_iff.mpr hix⟩, fun he => hrd ⟨he, writesBack_iff.mpr hix⟩⟩,
    fun hb he => hbyte ⟨hb, he⟩, ?_⟩
  rintro rm kind amount rfl
  exact ⟨fun he => hrm (congrArg some he), fun hix he => hpostRm ⟨congrArg some he, hix⟩⟩

theorem transferRefusal_mem {r : Refusal} (h : transferRefusal byte ix rn rd off = some r) :
    r ∈ [Refusal.sdtRmR15, .sdtWritebackR15, .sdtByteR15, .sdtPostindexRnEqualsRm, .sdtRdEqualsRnWriteback] := by
  rw [transferRefusal_eq] at h
  split_ifs at h <;> cases h <;> decide

variable {s : State} {up : Bool}

theorem State.checkedTransfer_of_refusal {r : Refusal} (h : transferRefusal byte ix rn rd off = some r) (access : Word → Result) :
    s.checkedTransfer byte ix up rn rd off access = .refused r := by
  rw [State.checkedTransfer, h]

theorem State.checkedTransfer_of_admits (h : TransferAdmits byte tForm ix rn rd off) (access : Word → Result) :
    s.checkedTransfer byte ix up rn rd off access =
      if !byte && !isAligned (s.transferAddr ix up rn off) then .refused .unalignedWord
      else if s.outOfRange (s.transferAddr ix up rn off) then .fault .addressAbove64M
      else access (s.transferAddr ix up rn off) := by
  simp only [State.checkedTransfer, h.transferRefusal]

/-- The alignment that a word needs and a byte does not. -/
theorem unaligned_iff (byte : Bool) (a : Word) : (!byte && !isAligned a) = true ↔ byte = false ∧ a.toNat % 4 ≠ 0 := by
  rw [Bool.and_eq_true, Bool.not_eq_true', Bool.not_eq_true', ← Bool.not_eq_true (isAligned a), isAligned_iff]

theorem State.outOfRange_eq_true_iff (s : State) (a : Word) :
    s.outOfRange a = true ↔ s.variant.isArm6Plus = false ∧ 2 ^ 26 ≤ a.toNat := by
  rw [← Bool.not_eq_false, State.outOfRange_eq_false_iff, Classical.not_imp, not_lt]

theorem State.Reaches.outOfRange {a : Word} (h : s.Reaches byte a) : s.outOfRange a = false :=
  (s.outOfRange_eq_false_iff a).mpr h.right

theorem State.Reaches.not_unaligned {a : Word} (h : s.Reaches byte a) : ¬ (!byte && !isAligned a) = true := by
  rw [unaligned_iff]
  exact fun ⟨hb, hne⟩ => hne (h.left hb)

/-- Past its checks a transfer comes to its access. -/
theorem State.checkedTransfer_of_reaches (h : TransferAdmits byte tForm ix rn rd off)
    (hreach : s.Reaches byte (s.transferAddr ix up rn off)) (access : Word → Result) :
    s.checkedTransfer byte ix up rn rd off access = access (s.transferAddr ix up rn off) := by
  rw [State.checkedTransfer_of_admits h, if_neg hreach.not_unaligned, hreach.outOfRange, if_neg Bool.false_ne_true]

end Checks

/-! ### The instructions -/

section Exec
variable {byte tForm : Bool} {c : Cond} {ix : Indexing} {up : Bool} {rn rd : RegNum} {off : Offset} {s : State}

theorem State.privOf_false (s : State) : s.privOf false = s.priv := by
  unfold State.privOf State.priv
  cases s.isPrivileged <;> rfl

/-- Only post-indexing has a T form (44_single_data_transfer.md R236). -/
theorem exec_loadInstr (hpost : tForm = true → ix = .post) :
    exec (loadInstr byte tForm c ix up rn rd off) s = loadSingle byte c ix up rn rd off (s.privOf tForm) s := by
  cases tForm with
  | false => rw [State.privOf_false]; cases byte <;> rfl
  | true => rw [hpost rfl]; cases byte <;> rfl

theorem exec_storeInstr (hpost : tForm = true → ix = .post) :
    exec (storeInstr byte tForm c ix up rn rd off) s = storeSingle byte c ix up rn rd off (s.privOf tForm) s := by
  cases tForm with
  | false => rw [State.privOf_false]; cases byte <;> rfl
  | true => rw [hpost rfl]; cases byte <;> rfl

/-- Both directions make the same checks before their access. -/
theorem exec_singleTransfer (load : Bool) (hc : condPassed s.cpsr c = true) (hpost : tForm = true → ix = .post) :
    ∃ access, exec (if load then loadInstr byte tForm c ix up rn rd off else storeInstr byte tForm c ix up rn rd off) s =
      s.checkedTransfer byte ix up rn rd off access := by
  cases load with
  | false => exact ⟨_, (exec_storeInstr hpost).trans (State.whenPassed_of_passed hc _)⟩
  | true => exact ⟨_, (exec_loadInstr hpost).trans (State.whenPassed_of_passed hc _)⟩

/-- The value that a load reads. -/
def State.loadedValue (s : State) (byte : Bool) (addr : Word) : Word :=
  if byte then (s.byteAt addr.toNat).zeroExtend 32 else s.wordAt addr

theorem State.toNat_loadedValue {addr : Word} (h : s.Reaches byte addr) :
    (s.loadedValue byte addr).toNat = if byte then (s.byteAt addr.toNat).toNat else s.leWord addr.toNat := by
  obtain ⟨haligned, -⟩ := h
  cases byte with
  | false => exact s.toNat_wordAt (haligned rfl)
  | true => exact BitVec.toNat_setWidth_of_le (show 8 ≤ 32 by decide)

section Reaches
variable (hc : condPassed s.cpsr c = true) (hadmits : TransferAdmits byte tForm ix rn rd off)
  (hreach : s.Reaches byte (s.transferAddr ix up rn off))
include hc hadmits hreach

theorem exec_loadInstr_of_reaches : exec (loadInstr byte tForm c ix up rn rd off) s =
    if s.aborts (s.transferAddr ix up rn off) (transferSize byte) .read (s.privOf tForm) then
      (s.abortBase (writesBack ix) rn (s.transferIdx up rn off)).dataAbort
    else if rd = 15#4 then
      .next ((s.writeBackIf (writesBack ix) rn (s.transferIdx up rn off)).writePc
        (s.loadedValue byte (s.transferAddr ix up rn off)))
    else
      s.advanceFrom ((s.writeBackIf (writesBack ix) rn (s.transferIdx up rn off)).setX rd
        (s.loadedValue byte (s.transferAddr ix up rn off))) := by
  rw [exec_loadInstr hadmits.post, loadSingle, State.whenPassed_of_passed hc, State.checkedTransfer_of_reaches hadmits hreach]
  rfl

theorem exec_storeInstr_of_reaches : exec (storeInstr byte tForm c ix up rn rd off) s =
    if s.aborts (s.transferAddr ix up rn off) (transferSize byte) .write (s.privOf tForm) then
      (s.abortBase (writesBack ix) rn (s.transferIdx up rn off)).dataAbort
    else
      s.advanceFrom ((s.storeSingleAt byte rd (s.transferAddr ix up rn off)).writeBackIf (writesBack ix) rn
        (s.transferIdx up rn off)) := by
  rw [exec_storeInstr hadmits.post, storeSingle, State.whenPassed_of_passed hc,
    State.checkedTransfer_of_reaches hadmits hreach]

end Reaches
end Exec

/-! ### The frame of a write-back -/

theorem State.Keeps.mono {s u : State} {regs regs' : List RegNum} (h : s.Keeps u regs) (hsub : ∀ i ∈ regs, i ∈ regs') :
    s.Keeps u regs' := by
  obtain ⟨hsystem, hspsrs, hbytes, hstored, hregs⟩ := h
  exact ⟨hsystem, hspsrs, hbytes, hstored, fun q hq => hregs q fun i hi => hq i (hsub i hi)⟩

theorem State.keeps_writeBackIf_ix (s : State) (ix : Indexing) (rn : RegNum) (v : Word) :
    s.Keeps (s.writeBackIf (writesBack ix) rn v) (if ix = .pre then [] else [rn]) := by
  cases ix with
  | pre => exact s.keeps_refl []
  | preWriteBack | post => exact s.keeps_setX (List.mem_singleton_self rn) v

theorem State.x_writeBackIf {s : State} {ix : Indexing} {rn : RegNum} (hix : ix ≠ .pre) (hrn : rn ≠ 15#4) (v : Word) :
    (s.writeBackIf (writesBack ix) rn v).x rn = v := by
  rw [State.writeBackIf, if_pos (writesBack_iff.mpr hix), State.x_setX _ _ _ _ hrn, if_pos rfl]

theorem State.x_withPc (s : State) (a : Word) {i : RegNum} (hi : i ≠ 15#4) : State.x { s with pc := a } i = s.x i :=
  State.x_congr hi rfl rfl

/-- Settles O29: the base is written back before Rd, and they are different registers. -/
theorem singleLoadResult : Obligations.SingleLoadResult := by
  unfold Obligations.SingleLoadResult
  rintro byte tForm c ix up rn rd off s ⟨hc, hpc⟩ hadmits hrd hreach habort
  rw [exec_loadInstr_of_reaches hc hadmits hreach, habort, if_neg Bool.false_ne_true, if_neg hrd, State.advanceFrom_of_ne_top hpc,
    ← State.toNat_loadedValue hreach]
  generalize s.loadedValue byte (s.transferAddr ix up rn off) = v, s.transferIdx up rn off = idx
  have hcpsr : ((s.writeBackIf (writesBack ix) rn idx).setX rd v).cpsr = s.cpsr :=
    (State.setX_cpsr ..).trans (s.writeBackIf_cpsr ..)
  have hx {i : RegNum} (hi : i ≠ 15#4) : State.x { (s.writeBackIf (writesBack ix) rn idx).setX rd v with pc := s.pc + 4 } i =
      if rd = i then v else (s.writeBackIf (writesBack ix) rn idx).x i :=
    (State.x_withPc _ _ hi).trans (State.x_setX _ rd i v hrd)
  refine ⟨_, rfl, ?value, fun hix => ?base, hcpsr, ?frame⟩
  case value => rw [hx hrd, if_pos rfl]
  case base =>
    obtain ⟨hrn, hne⟩ := hadmits.base_ne hix
    rw [hx hrn, if_neg hne, State.x_writeBackIf hix hrn]
  case frame =>
    have hwb := (s.keeps_writeBackIf_ix ix rn idx).mono (regs' := if ix = .pre then [rd] else [rd, rn])
      (by split <;> simp)
    exact (hwb.trans (congrArg Cpsr.mode (s.writeBackIf_cpsr ..)) (State.keeps_setX _ (by split <;> simp) v)).stepsOn

/-- Settles O31: the load ends in a jump to the word, from the state with the base written back. -/
theorem singleLoadToPc : Obligations.SingleLoadToPc := by
  unfold Obligations.SingleLoadToPc
  intro tForm c ix up rn off s hc hadmits hreach habort
  have hvalue := State.toNat_loadedValue hreach
  rw [if_neg Bool.false_ne_true] at hvalue
  rw [exec_loadInstr_of_reaches hc hadmits hreach, transferSize, if_neg Bool.false_ne_true, habort, if_neg Bool.false_ne_true,
    if_pos rfl, State.writePc_eq_jump, ← hvalue, BitVec.ofNat_toNat, BitVec.setWidth_eq]
  have hcpsr := s.writeBackIf_cpsr (writesBack ix) rn (s.transferIdx up rn off)
  refine ⟨_, rfl, ?pc, fun hix => ?base, hcpsr, (s.keeps_writeBackIf_ix ..).jumps _⟩
  case pc => rw [State.jump_pc, State.pcTop, State.is26, hcpsr]
  case base =>
    obtain ⟨hrn, -⟩ := hadmits.base_ne hix
    rw [State.x_congr hrn (State.jump_regs _ _) (congrArg Cpsr.mode (State.jump_cpsr _ _)), State.x_writeBackIf hix hrn]

/-! ### Stores (20_memory.md R73, R76) -/

/-- Of `s` the `n` bytes at `addr` have been stored, and nothing else has changed but LOCK. -/
def State.StoredAt (s u : State) (addr : Word) (n : Nat) : Prop :=
  u.variant = s.variant ∧ u.memMap = s.memMap ∧ u.coprocs = s.coprocs ∧ u.inputs = s.inputs ∧ s.SameSpsrs u ∧
    (∀ a : Nat, a < addr.toNat ∨ addr.toNat + n ≤ a → u.byteAt a = s.byteAt a) ∧
    (∀ a, a ∈ u.storedWords ↔ a ∈ s.storedWords ∨ a = addr.toNat / 4 * 4) ∧ u.regs = s.regs ∧ u.cpsr = s.cpsr

theorem State.StoredAt.cpsr {s u : State} {addr : Word} {n : Nat} (h : s.StoredAt u addr n) : u.cpsr = s.cpsr := by
  obtain ⟨-, -, -, -, -, -, -, -, hcpsr⟩ := h
  exact hcpsr

/-- A store and the registers written after it make up the frame of an instruction that stores. -/
theorem State.StoredAt.storesAt {s u t : State} {addr : Word} {n : Nat} {regs : List RegNum} (h : s.StoredAt u addr n)
    (hkeeps : u.Keeps t regs) : s.StoresAt { t with pc := s.pc + 4 } addr n regs := by
  obtain ⟨hvariant, hmemMap, hcoprocs, hinputs, hspsrs, hbytes, hstored, hregs, hcpsr⟩ := h
  obtain ⟨⟨hvariant', hmemMap', hcoprocs', -, hinputs'⟩, hspsrs', hbytes', hstored', hregs'⟩ := hkeeps
  rw [hcpsr] at hregs'
  exact ⟨rfl, hvariant'.trans hvariant, hmemMap'.trans hmemMap, hcoprocs'.trans hcoprocs, hinputs'.trans hinputs,
    fun b => (State.spsrOf_withPc t _ b).trans ((hspsrs' b).trans (hspsrs b)), fun a ha => (hbytes' a).trans (hbytes a ha),
    fun a => by rw [← hstored, ← hstored'], fun q hq => (hregs' q hq).trans (State.phys_congr hregs q)⟩

theorem State.mem_storedWords_store (s : State) (addr : Word) (a : Nat) :
    a ∈ insertStored s.storedWords (wordBase addr) ↔ a ∈ s.storedWords ∨ a = addr.toNat / 4 * 4 := by
  rw [mem_insertStored, wordBase_eq, or_comm]

section Store
variable {s : State} {addr : Word} (hmem : s.MemOk)
include hmem

theorem State.byteAt_storeByte (v : Byte) (a : Nat) :
    (s.storeByte addr v).byteAt a = if addr.toNat = a then v else s.byteAt a := readMem_writeMem hmem ..

theorem State.storedAt_storeByte (v : Byte) : s.StoredAt (s.storeByte addr v) addr 1 := by
  refine ⟨rfl, rfl, rfl, rfl, fun b => by cases b <;> rfl, fun a ha => ?_, s.mem_storedWords_store addr, rfl, rfl⟩
  rw [State.byteAt_storeByte hmem, if_neg (by omega)]

theorem State.wordAt_storeWord (v : Word) : (s.storeWord addr v).wordAt addr = v := readMemWord_writeMemWord_self hmem addr v

variable (haligned : addr.toNat % 4 = 0)
include haligned

theorem State.byteAt_storeWord_of_outside (v : Word) {a : Nat} (ha : a < addr.toNat ∨ addr.toNat + 4 ≤ a) :
    (s.storeWord addr v).byteAt a = s.byteAt a := by
  refine readMem_writeMemWord_of_ne hmem addr v fun k hk => ?_
  rw [byteAddr_of_aligned haligned hk]
  omega

theorem State.storedAt_storeWord (v : Word) : s.StoredAt (s.storeWord addr v) addr 4 :=
  ⟨rfl, rfl, rfl, rfl, fun b => by cases b <;> rfl, fun _ ha => State.byteAt_storeWord_of_outside hmem haligned v ha,
    s.mem_storedWords_store addr, rfl, rfl⟩

end Store

/-- The word or the byte of Rd that a store writes (44_single_data_transfer.md R240, R246). -/
def State.storeValue (s : State) (rd : RegNum) : Word := if rd = 15#4 then s.storedR15 else s.x rd

section StoreSingle
variable {s : State} {byte : Bool} {rd : RegNum} {addr : Word} (hmem : s.MemOk) (hreach : s.Reaches byte addr)
include hmem hreach

theorem State.storedAt_storeSingleAt : s.StoredAt (s.storeSingleAt byte rd addr) addr (if byte then 1 else 4) := by
  obtain ⟨haligned, -⟩ := hreach
  cases byte with
  | false => exact State.storedAt_storeWord hmem (haligned rfl) _
  | true => exact State.storedAt_storeByte hmem _

/-- The stored bytes read back as the value. -/
theorem State.read_storeSingleAt :
    if byte then ((s.storeSingleAt byte rd addr).byteAt addr.toNat).toNat = (s.storeValue rd).toNat % 2 ^ 8
    else (s.storeSingleAt byte rd addr).leWord addr.toNat = (s.storeValue rd).toNat := by
  obtain ⟨haligned, -⟩ := hreach
  cases byte with
  | false =>
    rw [if_neg Bool.false_ne_true, ← State.toNat_wordAt _ (haligned rfl)]
    exact congrArg BitVec.toNat (State.wordAt_storeWord hmem _)
  | true =>
    rw [if_pos rfl]
    exact (congrArg BitVec.toNat ((State.byteAt_storeByte hmem _ _).trans (if_pos rfl))).trans (toNat_bottomByte _)

end StoreSingle

theorem State.leWord_congr {s t : State} (h : t.mem = s.mem) (a : Nat) : t.leWord a = s.leWord a := by
  unfold State.leWord State.byteAt
  rw [h]

theorem State.byteAt_congr {s t : State} (h : t.mem = s.mem) (a : Nat) : t.byteAt a = s.byteAt a := by
  unfold State.byteAt
  rw [h]

/-- Settles O32: the store and then the write-back, which leaves memory alone. -/
theorem singleStoreResult : Obligations.SingleStoreResult := by
  unfold Obligations.SingleStoreResult
  refine ⟨?store, if Config.strPcOffsetIsTwelve then 12#32 else 8#32, ?offset, fun s => rfl⟩
  case offset => cases Config.strPcOffsetIsTwelve <;> decide
  case store =>
    rintro byte tForm c ix up rn rd off s hmem ⟨hc, hpc⟩ hadmits hreach habort
    rw [exec_storeInstr_of_reaches hc hadmits hreach, habort, if_neg Bool.false_ne_true, State.advanceFrom_of_ne_top hpc]
    have hstored := State.storedAt_storeSingleAt (rd := rd) hmem hreach
    have hread := State.read_storeSingleAt (rd := rd) hmem hreach
    have hmode : (s.storeSingleAt byte rd (s.transferAddr ix up rn off)).cpsr = s.cpsr := hstored.cpsr
    have hlock : (s.storeSingleAt byte rd (s.transferAddr ix up rn off)).lock = s.lock := by cases byte <;> rfl
    generalize s.storeSingleAt byte rd (s.transferAddr ix up rn off) = u at *
    refine ⟨_, rfl, ?read, fun hix => ?base, (u.writeBackIf_cpsr ..).trans hmode, (u.writeBackIf_lock ..).trans hlock,
      hstored.storesAt (u.keeps_writeBackIf_ix ..)⟩
    case read =>
      rw [← State.leWord_congr (u.writeBackIf_mem (writesBack ix) rn (s.transferIdx up rn off)),
        ← State.byteAt_congr (u.writeBackIf_mem (writesBack ix) rn (s.transferIdx up rn off))] at hread
      exact hread
    case base =>
      obtain ⟨hrn, -⟩ := hadmits.base_ne hix
      exact (State.x_withPc _ _ hrn).trans (State.x_writeBackIf hix hrn _)

/-! ### Aborts and stops (44_single_data_transfer.md R245, R248) -/

theorem State.abortBase_eq_ite (s : State) (ix : Indexing) (rn : RegNum) (v : Word) :
    s.abortBase (writesBack ix) rn v = if Config.abortBaseUpdated = true ∧ ix ≠ .pre then s.setX rn v else s := by
  simp only [State.abortBase, Bool.and_eq_true, writesBack_iff, and_comm]

/-- The data abort after a write-back that may have happened: the saved address is A + 8 in either case. -/
theorem State.dataAbort_entered {s u : State} (hpc : u.pc = s.pc) : ∃ t, u.dataAbort = .next t ∧ Entered u .dataAbort (s.pc + 8) t :=
  ⟨_, rfl, hpc ▸ u.takeException_entered .dataAbort (u.pc + 8)⟩

theorem exec_singleTransfer_of_abort {load byte tForm : Bool} {c : Cond} {ix : Indexing} {up : Bool} {rn rd : RegNum} {off : Offset}
    {s : State} (hc : condPassed s.cpsr c = true) (hadmits : TransferAdmits byte tForm ix rn rd off)
    (hreach : s.Reaches byte (s.transferAddr ix up rn off))
    (habort : s.aborts (s.transferAddr ix up rn off) (transferSize byte) (if load then .read else .write) (s.privOf tForm) = true) :
    exec (if load then loadInstr byte tForm c ix up rn rd off else storeInstr byte tForm c ix up rn rd off) s =
      (s.abortBase (writesBack ix) rn (s.transferIdx up rn off)).dataAbort := by
  cases load with
  | false => exact (exec_storeInstr_of_reaches hc hadmits hreach).trans (if_pos habort)
  | true => exact (exec_loadInstr_of_reaches hc hadmits hreach).trans (if_pos habort)

/-- Settles O33: the choice is `ABORT_BASE`, and the abort is taken from the state with the base as it says. -/
theorem singleTransferAborts : Obligations.SingleTransferAborts := by
  unfold Obligations.SingleTransferAborts
  refine ⟨Config.abortBaseUpdated, fun load byte tForm c ix up rn rd off s hc hadmits hreach habort => ?_⟩
  rw [exec_singleTransfer_of_abort hc hadmits hreach habort, ← State.abortBase_eq_ite]
  exact State.dataAbort_entered (s.abortBase_pc ..)

/-- Settles O34: the checks in their order. -/
theorem singleTransferStops : Obligations.SingleTransferStops := by
  unfold Obligations.SingleTransferStops
  intro load byte tForm c ix up rn rd off s hc hpost
  obtain ⟨access, hexec⟩ := exec_singleTransfer (byte := byte) (up := up) (rn := rn) (rd := rd) (off := off) load hc hpost
  rw [hexec]
  refine ⟨fun hnot => ?restricted, fun hadmits hbyte hne => ?unaligned, fun hadmits haligned hv habove => ?above⟩
  case restricted =>
    cases hr : transferRefusal byte ix rn rd off with
    | none => exact absurd (transferAdmits_of_transferRefusal hpost hr) hnot
    | some r => exact ⟨r, transferRefusal_mem hr, State.checkedTransfer_of_refusal hr access⟩
  case unaligned => rw [State.checkedTransfer_of_admits hadmits, if_pos ((unaligned_iff ..).mpr ⟨hbyte, hne⟩)]
  case above =>
    rw [State.checkedTransfer_of_admits hadmits, if_neg (mt (unaligned_iff ..).mp fun ⟨hb, hne⟩ => hne (haligned hb)),
      if_pos ((s.outOfRange_eq_true_iff _).mpr ⟨hv, habove⟩)]

end Sys2Proof.Machine
end

section
/-! Sequences of word stores (20_memory.md R73, R77): what reads back, what stays, and which words count as stored. -/

namespace Sys2Proof.Machine

/-! ### Words one after another -/

/-- Words fewer than 2^30 apart lie at different addresses. -/
theorem wordAddr_inj {start : Word} {j k : Nat} (hj : j < 2 ^ 30) (hk : k < 2 ^ 30) (h : wordAddr start j = wordAddr start k) :
    j = k := by
  have := congrArg BitVec.toNat h
  rw [wordAddr, wordAddr, BitVec.toNat_add, BitVec.toNat_add, BitVec.toNat_mul, BitVec.toNat_mul, BitVec.toNat_ofNat,
    BitVec.toNat_ofNat, BitVec.toNat_ofNat] at this
  omega

theorem wordAddr_mod_four_iff (start : Word) (k : Nat) : (wordAddr start k).toNat % 4 = 0 ↔ start.toNat % 4 = 0 := by
  unfold wordAddr
  generalize BitVec.ofNat 32 k = d
  bv_omega

theorem wordBase_of_aligned {a : Word} (h : a.toNat % 4 = 0) : wordBase a = a.toNat := by
  rw [wordBase_eq]
  omega

theorem mem_wordAddrs {start a : Word} {n : Nat} : a ∈ wordAddrs start n ↔ ∃ k < n, wordAddr start k = a := by
  simp [wordAddrs_eq_map]

theorem getElem?_wordAddrs {start : Word} {n k : Nat} (hk : k < n) : (wordAddrs start n)[k]? = some (wordAddr start k) := by
  simp [wordAddrs_eq_map, hk]

theorem length_wordAddrs (start : Word) (n : Nat) : (wordAddrs start n).length = n := by simp [wordAddrs_eq_map]

theorem take_wordAddrs {start : Word} {n j : Nat} (hj : j ≤ n) : (wordAddrs start n).take j = wordAddrs start j := by
  rw [wordAddrs_eq_map, ← List.map_take, List.take_range, Nat.min_eq_left hj, wordAddrs_eq_map]

/-! ### Reading after the stores -/

/-- Two different aligned words share no byte. -/
theorem byteAddr_ne_of_aligned {a b : Word} (ha : a.toNat % 4 = 0) (hb : b.toNat % 4 = 0) (hne : a ≠ b) {j k : Nat} (hj : j < 4)
    (hk : k < 4) : byteAddr a j ≠ byteAddr b k := by
  rw [byteAddr_of_aligned ha hj, byteAddr_of_aligned hb hk]
  exact fun h => hne (BitVec.eq_of_toNat_eq (by omega))

theorem State.wordAt_storeWords_of_not_mem {s : State} {l : List (Word × Word)} (hmem : s.MemOk)
    (haligned : ∀ x ∈ l, x.1.toNat % 4 = 0) {a : Word} (ha : a.toNat % 4 = 0) (hnot : a ∉ l.map Prod.fst) :
    (s.storeWords l).wordAt a = s.wordAt a := by
  have hbyte {k : Nat} (hk : k < 4) : (s.storeWords l).byteAt (byteAddr a k) = s.byteAt (byteAddr a k) :=
    State.byteAt_storeWords hmem fun x hx j hj =>
      byteAddr_ne_of_aligned (haligned x hx) ha (fun h => hnot (h ▸ List.mem_map_of_mem hx)) hj hk
  unfold State.byteAt at hbyte
  rw [State.wordAt, readMemWord, hbyte (by decide), hbyte (by decide), hbyte (by decide), hbyte (by decide), State.wordAt,
    readMemWord]

/-- Where no word is stored twice, each holds what was stored in it. -/
theorem State.wordAt_storeWords_of_mem {s : State} {l : List (Word × Word)} (hmem : s.MemOk)
    (haligned : ∀ x ∈ l, x.1.toNat % 4 = 0) (hnodup : (l.map Prod.fst).Nodup) {a v : Word} (hav : (a, v) ∈ l) :
    (s.storeWords l).wordAt a = v := by
  induction l generalizing s with
  | nil => cases hav
  | cons x l ih =>
    rw [List.map_cons, List.nodup_cons] at hnodup
    rw [List.forall_mem_cons] at haligned
    obtain ⟨hnot, hnodup⟩ := hnodup
    obtain ⟨hx, hl⟩ := haligned
    have hmem' : (s.storeWord x.1 x.2).MemOk := Memory.wf_writeMemWord hmem ..
    obtain rfl | htail := List.mem_cons.mp hav
    · exact (State.wordAt_storeWords_of_not_mem hmem' hl hx hnot).trans (State.wordAt_storeWord hmem v)
    · exact ih hmem' hl hnodup htail

theorem State.mem_storedWords_storeWords {s : State} {l : List (Word × Word)} {a : Nat} :
    a ∈ (s.storeWords l).storedWords ↔ a ∈ s.storedWords ∨ ∃ x ∈ l, a = wordBase x.1 := by
  induction l generalizing s with
  | nil => simp [State.storeWords]
  | cons x l ih =>
    rw [State.storeWords, ih, State.storeWord_storedWords, mem_insertStored, List.exists_mem_cons_iff]
    tauto

/-! ### `n` words from `start` on -/

section Words
variable {s : State} {start : Word} {n : Nat} {vals : List Word}

/-- The state with `vals` stored in the words from `start` on. -/
def State.storeFrom (s : State) (start : Word) (vals : List Word) : State :=
  s.storeWords ((wordAddrs start vals.length).zip vals)

theorem fst_zip_wordAddrs (start : Word) (vals : List Word) :
    ((wordAddrs start vals.length).zip vals).map Prod.fst = wordAddrs start vals.length :=
  List.map_fst_zip (length_wordAddrs ..).le

theorem aligned_of_mem_zip (haligned : ∀ k < vals.length, (wordAddr start k).toNat % 4 = 0) :
    ∀ x ∈ (wordAddrs start vals.length).zip vals, x.1.toNat % 4 = 0 := by
  intro x hx
  obtain ⟨k, hk, hxk⟩ := mem_wordAddrs.mp (List.of_mem_zip hx).1
  rw [← hxk]
  exact haligned k hk

theorem mem_zip_wordAddrs {k : Nat} {v : Word} (hk : vals[k]? = some v) :
    (wordAddr start k, v) ∈ (wordAddrs start vals.length).zip vals := by
  obtain ⟨hlt, -⟩ := List.getElem?_eq_some_iff.mp hk
  exact List.mem_of_getElem? (List.getElem?_zip_eq_some.mpr ⟨getElem?_wordAddrs hlt, hk⟩)

/-- Of memory those words and no others are stored. -/
theorem State.storesWords_storeFrom (hmem : s.MemOk) (haligned : ∀ k < vals.length, (wordAddr start k).toNat % 4 = 0) :
    s.StoresWords (s.storeFrom start vals) start vals.length := by
  refine ⟨fun a ha => State.byteAt_storeWords hmem fun x hx k hk => ?_, fun a => ?_⟩
  · obtain ⟨j, hj, hxj⟩ := mem_wordAddrs.mp (List.of_mem_zip hx).1
    have houtside := ha j hj
    rw [← hxj, byteAddr_of_aligned (haligned j hj) hk]
    omega
  · rw [State.storeFrom, State.mem_storedWords_storeWords]
    refine or_congr_right ⟨?_, ?_⟩
    · rintro ⟨x, hx, rfl⟩
      obtain ⟨k, hk, hxk⟩ := mem_wordAddrs.mp (List.of_mem_zip hx).1
      exact ⟨k, hk, hxk ▸ wordBase_of_aligned (haligned k hk)⟩
    · rintro ⟨k, hk, rfl⟩
      exact ⟨_, mem_zip_wordAddrs (List.getElem?_eq_getElem hk), (wordBase_of_aligned (haligned k hk)).symm⟩

theorem nodup_wordAddrs (start : Word) (hn : n ≤ 2 ^ 30) : (wordAddrs start n).Nodup := by
  rw [wordAddrs_eq_map]
  refine List.nodup_range.map_on fun j hj k hk h => ?_
  rw [List.mem_range] at hj hk
  exact wordAddr_inj (by omega) (by omega) h

theorem State.leWord_storeFrom (hmem : s.MemOk) (haligned : ∀ k < vals.length, (wordAddr start k).toNat % 4 = 0)
    (hn : vals.length ≤ 2 ^ 30) {k : Nat} {v : Word} (hk : vals[k]? = some v) :
    (s.storeFrom start vals).leWord (wordAddr start k).toNat = v.toNat := by
  obtain ⟨hlt, -⟩ := List.getElem?_eq_some_iff.mp hk
  have hnodup : (((wordAddrs start vals.length).zip vals).map Prod.fst).Nodup := by
    rw [fst_zip_wordAddrs]
    exact nodup_wordAddrs start hn
  rw [← State.toNat_wordAt _ (haligned k hlt), State.storeFrom,
    State.wordAt_storeWords_of_mem hmem (aligned_of_mem_zip haligned) hnodup (mem_zip_wordAddrs hk)]

theorem zip_wordAddrs_eq (hlen : vals.length = n) : s.storeWords ((wordAddrs start n).zip vals) = s.storeFrom start vals := by
  rw [State.storeFrom, hlen]

/-- The stores below the j-th. -/
theorem take_zip_wordAddrs_eq (hlen : vals.length = n) {j : Nat} (hj : j ≤ n) :
    s.storeWords (((wordAddrs start n).zip vals).take j) = s.storeFrom start (vals.take j) := by
  rw [State.storeFrom, List.zip, List.take_zipWith, take_wordAddrs hj, List.length_take, hlen, Nat.min_eq_left hj]

end Words

/-- Stores change memory and the stored words, and nothing else. -/
theorem State.storeFrom_frame (s : State) (start : Word) (vals : List Word) :
    (s.storeFrom start vals).regs = s.regs ∧ (s.storeFrom start vals).cpsr = s.cpsr ∧ (s.storeFrom start vals).pc = s.pc ∧
      s.SameSystem (s.storeFrom start vals) ∧ s.SameSpsrs (s.storeFrom start vals) := by
  unfold State.storeFrom
  refine ⟨by simp, by simp, by simp, ⟨by simp, by simp, by simp, by simp, by simp⟩, fun b => ?_⟩
  cases b <;> simp [State.spsrOf]

theorem State.StoresWords.congr {s t t' : State} {start : Word} {n : Nat} (h : s.StoresWords t start n) (hmem : t'.mem = t.mem)
    (hstored : t'.storedWords = t.storedWords) : s.StoresWords t' start n := by
  obtain ⟨hbytes, hwords⟩ := h
  exact ⟨fun a ha => (State.byteAt_congr hmem a).trans (hbytes a ha), fun a => hstored ▸ hwords a⟩

end Sys2Proof.Machine
end

section
/-! The block data transfers (45_block_data_transfer.md R260 to R279): the addresses, the checks, loads without R15, stores, aborts. -/

namespace Sys2Proof.Machine

/-! ### The addresses (45_block_data_transfer.md R262) -/

theorem wordAddr_last (start : Word) {n : Nat} (hn : 0 < n) :
    wordAddr start (n - 1) = start + 4 * BitVec.ofNat 32 n - 4 := by
  obtain ⟨k, rfl⟩ := Nat.exists_eq_add_of_le' hn
  rw [Nat.add_sub_cancel, BitVec.ofNat_add]
  change start + 4 * BitVec.ofNat 32 k = start + 4 * (BitVec.ofNat 32 k + 1) - 4
  ring

/-- Settles O35: the last address lies four below where the words end. -/
theorem blockAddresses : Obligations.BlockAddresses := by
  unfold Obligations.BlockAddresses
  intro base n hn
  simp only [wordAddr_last _ hn]
  refine ⟨⟨rfl, rfl, rfl⟩, ⟨rfl, ?ib, rfl⟩, ⟨rfl, ?da, rfl⟩, rfl, ?db, rfl⟩
  case ib =>
    change base + 4 + 4 * BitVec.ofNat 32 n - 4 = _
    ring
  case da =>
    change base - 4 * BitVec.ofNat 32 n + 4 + 4 * BitVec.ofNat 32 n - 4 = _
    ring
  case db =>
    change base - 4 * BitVec.ofNat 32 n + 4 * BitVec.ofNat 32 n - 4 = _
    ring

theorem blockStart_mod_four_iff (m : BlockMode) (base : Word) (n : Nat) :
    (blockStart m base n).toNat % 4 = 0 ↔ base.toNat % 4 = 0 := by
  unfold blockStart
  generalize BitVec.ofNat 32 n = d
  cases m with
  | ia => rfl
  | ib | da | db => bv_omega

/-! ### The accesses -/

section Accesses
variable {s : State} {start : Word} {n j : Nat} {dir : AccessDir}

/-- The first access that aborts, those below it let through. -/
theorem State.BlockReaches.firstAbort_eq_some (h : s.BlockReaches start j dir) (hj : j < n)
    (habort : s.aborts (wordAddr start j) .word dir s.priv = true) :
    s.firstAbort (wordAddrs start n) dir s.priv = some j := by
  rw [State.firstAbort, List.findIdx?_eq_some_iff_getElem]
  refine ⟨by rwa [length_wordAddrs], ?_, fun k hk => ?_⟩
  · simpa [wordAddrs_eq_map] using habort
  · obtain ⟨-, hthrough⟩ := h k hk
    simpa [wordAddrs_eq_map] using hthrough

theorem State.exists_firstAbort (hj : j < n) (habort : s.aborts (wordAddr start j) .word dir s.priv = true) :
    ∃ k, s.firstAbort (wordAddrs start n) dir s.priv = some k := by
  cases h : s.firstAbort (wordAddrs start n) dir s.priv with
  | some k => exact ⟨k, rfl⟩
  | none =>
    rw [State.firstAbort, List.findIdx?_eq_none_iff] at h
    exact absurd habort (ne_true_of_eq_false (h _ (mem_wordAddrs.mpr ⟨j, hj, rfl⟩)))

theorem State.any_outOfRange_iff : (wordAddrs start n).any s.outOfRange = true ↔
    ∃ k < n, s.variant.isArm6Plus = false ∧ 2 ^ 26 ≤ (wordAddr start k).toNat := by
  simp [wordAddrs_eq_map, State.outOfRange_eq_true_iff]

theorem State.any_outOfRange_of_reaches (h : ∀ k < n, s.Reaches false (wordAddr start k)) :
    (wordAddrs start n).any s.outOfRange = false := by
  rw [List.any_eq_false]
  intro a ha
  obtain ⟨k, hk, rfl⟩ := mem_wordAddrs.mp ha
  rw [(h k hk).outOfRange]
  exact Bool.false_ne_true

end Accesses

/-! ### The instructions -/

theorem exec_storeMultiple (m : BlockMode) (c : Cond) (hat wb : Bool) (rn : RegNum) (list : BitVec 16) (s : State) :
    exec (storeMultiple m c hat wb rn list) s = storeBlock m c hat wb rn list s := by
  cases m with
  | ia | ib | da | db => rfl

section Checks
variable {s : State} {m : BlockMode} {c : Cond} {load hat wb : Bool} {rn : RegNum} {list : BitVec 16}

/-- Both directions make the same checks before their accesses. -/
theorem exec_blockTransfer (load : Bool) (hc : condPassed s.cpsr c = true) :
    ∃ access, exec (if load then loadMultiple m c hat wb rn list else storeMultiple m c hat wb rn list) s =
      s.checkedBlock m load hat wb rn list access := by
  cases load with
  | false => exact ⟨_, (exec_storeMultiple ..).trans (State.whenPassed_of_passed hc _)⟩
  | true => exact ⟨_, (exec_loadMultiple ..).trans (State.whenPassed_of_passed hc _)⟩

theorem State.checkedBlock_of_blockAdmits (h : s.BlockAdmits load hat wb rn list) (access : List Word → Result) :
    s.checkedBlock m load hat wb rn list access =
      if !isAligned (blockStart m (s.x rn) (listRegs list).length) then .refused .unalignedWord
      else if (wordAddrs (blockStart m (s.x rn) (listRegs list).length) (listRegs list).length).any s.outOfRange then
        .fault .addressAbove64M
      else access (wordAddrs (blockStart m (s.x rn) (listRegs list).length) (listRegs list).length) := by
  simp only [State.checkedBlock, h.blockRefusal]

/-- Past its checks a block transfer comes to its accesses, whether or not they abort. -/
theorem State.checkedBlock_of_reaches (h : s.BlockAdmits load hat wb rn list)
    (hreach : ∀ k < (listRegs list).length, s.Reaches false (wordAddr (blockStart m (s.x rn) (listRegs list).length) k))
    (access : List Word → Result) : s.checkedBlock m load hat wb rn list access =
      access (wordAddrs (blockStart m (s.x rn) (listRegs list).length) (listRegs list).length) := by
  obtain ⟨haligned, -⟩ := hreach 0 (length_listRegs_pos h.ne_zero)
  have hstart : isAligned (blockStart m (s.x rn) (listRegs list).length) = true := by
    rw [isAligned_iff, ← wordAddr_mod_four_iff _ 0]
    exact haligned rfl
  rw [State.checkedBlock_of_blockAdmits h, hstart, Bool.not_true, if_neg Bool.false_ne_true, State.any_outOfRange_of_reaches hreach,
    if_neg Bool.false_ne_true]

theorem exec_blockTransfer_of_blockRefusal (load : Bool) {r : Refusal} (hc : condPassed s.cpsr c = true)
    (h : s.blockRefusal load hat wb rn list = some r) :
    exec (if load then loadMultiple m c hat wb rn list else storeMultiple m c hat wb rn list) s = .refused r := by
  obtain ⟨access, hexec⟩ := exec_blockTransfer (m := m) (hat := hat) (wb := wb) (rn := rn) (list := list) load hc
  rw [hexec, State.checkedBlock, h]

end Checks

/-! ### The restrictions in their order (45_block_data_transfer.md R278) -/

section Refusal
variable {s : State} {load hat wb : Bool} {rn : RegNum} {list : BitVec 16}

theorem State.blockRefusal_of_base (hrn : rn = 15#4) : s.blockRefusal load hat wb rn list = some .bdtBaseR15 := if_pos hrn

theorem not_baseLoaded (hbase : load = true → wb = true → list.getLsbD rn.toNat = false) :
    ¬ (load = true ∧ wb = true ∧ list.getLsbD rn.toNat = true) := fun ⟨hload, hwb, hlisted⟩ =>
  absurd (hbase hload hwb) (ne_false_of_eq_true hlisted)

theorem State.not_userBankInUser (hpriv : usesUserBank load hat list = true → s.isPrivileged = true) :
    ¬ (usesUserBank load hat list = true ∧ s.isPrivileged = false) := fun ⟨hbank, huser⟩ =>
  absurd (hpriv hbank) (ne_true_of_eq_false huser)

variable (hrn : rn ≠ 15#4)
include hrn

theorem State.blockRefusal_of_listed (hwb : wb = true) (hlisted : list.getLsbD rn.toNat = true) :
    s.blockRefusal true hat wb rn list = some .ldmBaseInListWriteback := by
  rw [State.blockRefusal, if_neg hrn, if_pos ⟨rfl, hwb, hlisted⟩]

variable (hbase : load = true → wb = true → list.getLsbD rn.toNat = false)
include hbase

theorem State.blockRefusal_of_user (hbank : usesUserBank load hat list = true) (huser : s.isPrivileged = false) :
    s.blockRefusal load hat wb rn list = some .bdtSInUser := by
  rw [State.blockRefusal, if_neg hrn, if_neg (not_baseLoaded hbase), if_pos ⟨hbank, huser⟩]

variable (hpriv : usesUserBank load hat list = true → s.isPrivileged = true)
include hpriv

theorem State.blockRefusal_of_empty (hempty : list = 0#16) : s.blockRefusal load hat wb rn list = some .bdtEmptyList := by
  have h15 : ¬ (load = true ∧ hat = true ∧ list.getLsbD 15 = true ∧ s.cpsr.mode = .usr32) := fun ⟨_, _, h, _⟩ =>
    absurd (hempty ▸ h) (by decide)
  rw [State.blockRefusal, if_neg hrn, if_neg (not_baseLoaded hbase), if_neg (State.not_userBankInUser hpriv), if_neg h15,
    if_pos hempty]

theorem State.blockRefusal_of_userWriteback (hbank : usesUserBank load hat list = true) (hlist : list ≠ 0#16) (hwb : wb = true) :
    s.blockRefusal load hat wb rn list = some .bdtUserBankWriteback := by
  have h15 : ¬ (load = true ∧ hat = true ∧ list.getLsbD 15 = true ∧ s.cpsr.mode = .usr32) := by
    rintro ⟨rfl, -, h, -⟩
    obtain ⟨-, hcase⟩ := usesUserBank_iff.mp hbank
    exact absurd (hcase.resolve_left (by decide)) (ne_false_of_eq_true h)
  rw [State.blockRefusal, if_neg hrn, if_neg (not_baseLoaded hbase), if_neg (State.not_userBankInUser hpriv), if_neg h15,
    if_neg hlist, if_pos ⟨hbank, hwb⟩]

end Refusal

/-- Settles O40: each refusal once the earlier ones do not apply, then the alignment, then the width. -/
theorem blockTransferRefused : Obligations.BlockTransferRefused := by
  unfold Obligations.BlockTransferRefused
  intro m c hat wb rn list s hc
  have hload {r : Refusal} (h : s.blockRefusal true hat wb rn list = some r) :
      exec (loadMultiple m c hat wb rn list) s = .refused r := exec_blockTransfer_of_blockRefusal true hc h
  have hstore {r : Refusal} (h : s.blockRefusal false hat wb rn list = some r) :
      exec (storeMultiple m c hat wb rn list) s = .refused r := exec_blockTransfer_of_blockRefusal false hc h
  have hnoLoad : false = true → wb = true → list.getLsbD rn.toNat = false := fun h => nomatch h
  have hstoreBank (hhat : hat = true) : usesUserBank false hat list = true := usesUserBank_iff.mpr ⟨hhat, .inl rfl⟩
  have hloadBank (hhat : hat = true) (h15 : list.getLsbD 15 = false) : usesUserBank true hat list = true :=
    usesUserBank_iff.mpr ⟨hhat, .inr h15⟩
  refine ⟨fun hrn => ?base, fun hrn hwb hlisted => ?listed, fun hrn hhat huser => ?user, fun hrn hpriv hempty => ?empty,
    fun hrn hhat hpriv hlist hwb => ?writeback, fun load hadmits => ?addresses⟩
  case base => exact ⟨hload (State.blockRefusal_of_base hrn), hstore (State.blockRefusal_of_base hrn)⟩
  case listed => exact hload (State.blockRefusal_of_listed hrn hwb hlisted)
  case user =>
    refine ⟨hstore (State.blockRefusal_of_user hrn hnoLoad (hstoreBank hhat) huser), fun hbase => ⟨fun h15 => ?_, fun h15 hmode => ?_⟩⟩
    · exact hload (State.blockRefusal_of_user hrn (fun _ => hbase) (hloadBank hhat h15) huser)
    · subst hhat
      exact hload (State.blockRefusal_of_usr32 hrn h15 hbase hmode)
  case empty =>
    have hbank {load : Bool} (hu : usesUserBank load hat list = true) : s.isPrivileged = true := hpriv (usesUserBank_iff.mp hu).left
    have hbase (_ : true = true) (_ : wb = true) : list.getLsbD rn.toNat = false := by rw [hempty, BitVec.getLsbD_zero]
    exact ⟨hload (State.blockRefusal_of_empty hrn hbase hbank hempty), hstore (State.blockRefusal_of_empty hrn hnoLoad hbank hempty)⟩
  case writeback =>
    refine ⟨hstore (State.blockRefusal_of_userWriteback hrn hnoLoad (fun _ => hpriv) (hstoreBank hhat) hlist hwb),
      fun h15 hbase => ?_⟩
    exact hload (State.blockRefusal_of_userWriteback hrn (fun _ _ => hbase) (fun _ => hpriv) (hloadBank hhat h15) hlist hwb)
  case addresses =>
    obtain ⟨access, hexec⟩ := exec_blockTransfer (m := m) (hat := hat) (wb := wb) (rn := rn) (list := list) load hc
    have haligned := (isAligned_iff _).trans (blockStart_mod_four_iff m (s.x rn) (listRegs list).length)
    dsimp only
    rw [hexec, State.checkedBlock_of_blockAdmits hadmits]
    refine ⟨fun hne => ?_, fun heq hv ⟨k, hk, habove⟩ => ?_⟩
    · rw [Bool.eq_false_iff.mpr (mt haligned.mp hne), Bool.not_false, if_pos rfl]
    · rw [haligned.mpr heq, Bool.not_true, if_neg Bool.false_ne_true, if_pos (State.any_outOfRange_iff.mpr ⟨k, hk, hv, habove⟩)]

/-! ### The frame of the writes in a given bank (45_block_data_transfer.md R270) -/

/-- `State.Keeps` with the bank of the registers given. -/
def State.KeepsIn (s u : State) (b : Bank) (regs : List RegNum) : Prop :=
  s.SameSystem u ∧ s.SameSpsrs u ∧ s.SameBytes u ∧ u.storedWords = s.storedWords ∧ s.SameRegsBut u b regs

theorem State.keeps_iff_keepsIn {s u : State} {regs : List RegNum} : s.Keeps u regs ↔ s.KeepsIn u s.cpsr.mode.bank regs := Iff.rfl

theorem State.keepsIn_refl (s : State) (b : Bank) (regs : List RegNum) : s.KeepsIn s b regs :=
  ⟨⟨rfl, rfl, rfl, rfl, rfl⟩, fun _ => rfl, fun _ => rfl, rfl, fun _ _ => rfl⟩

theorem State.keepsIn_setBankReg (s : State) (b : Bank) {i : RegNum} {regs : List RegNum} (hi : i ∈ regs) (v : Word) :
    s.KeepsIn (s.setBankReg b i v) b regs := by
  refine ⟨?system, fun b' => State.spsrOf_setBankReg s b b' i v, fun a => ?bytes, State.setBankReg_storedWords s b i v, fun q hq => ?regs⟩
  case system => exact ⟨by simp, by simp, by simp, by simp, by simp⟩
  case bytes => rw [State.byteAt, State.setBankReg_mem, State.byteAt]
  case regs => rw [State.phys_setBankReg, if_neg (hq i hi)]

theorem State.KeepsIn.trans {s u t : State} {b : Bank} {regs : List RegNum} (h : s.KeepsIn u b regs) (h' : u.KeepsIn t b regs) :
    s.KeepsIn t b regs := by
  obtain ⟨⟨hvariant, hmemMap, hcoprocs, hlock, hinputs⟩, hspsrs, hbytes, hstored, hregs⟩ := h
  obtain ⟨⟨hvariant', hmemMap', hcoprocs', hlock', hinputs'⟩, hspsrs', hbytes', hstored', hregs'⟩ := h'
  exact ⟨⟨hvariant'.trans hvariant, hmemMap'.trans hmemMap, hcoprocs'.trans hcoprocs, hlock'.trans hlock, hinputs'.trans hinputs⟩,
    fun b => (hspsrs' b).trans (hspsrs b), fun a => (hbytes' a).trans (hbytes a), hstored'.trans hstored,
    fun q hq => (hregs' q hq).trans (hregs q hq)⟩

theorem State.keepsIn_writeRegs {s : State} {userBank : Bool} {b : Bank} {l : List (RegNum × Word)} {regs : List RegNum}
    (hb : s.transferBank userBank = b) (h : ∀ x ∈ l, x.1 ∈ regs) : s.KeepsIn (s.writeRegs userBank l) b regs := by
  induction l generalizing s with
  | nil => exact s.keepsIn_refl b regs
  | cons x l ih =>
    obtain ⟨i, v⟩ := x
    rw [List.forall_mem_cons] at h
    obtain ⟨hi, hl⟩ := h
    rw [State.writeRegs_cons hb]
    exact (s.keepsIn_setBankReg b hi v).trans (ih (State.transferBank_congr (s.setBankReg_cpsr b i v) hb) hl)

/-! ### Loads without R15 (45_block_data_transfer.md R264) -/

section Load
variable {s : State} {m : BlockMode} {c : Cond} {hat wb : Bool} {rn : RegNum} {list : BitVec 16}

/-- Without R15 in the list a load steps on; the bank is the user bank exactly with S. -/
theorem exec_loadMultiple_of_not_pc (hc : condPassed s.cpsr c = true) (hadmits : s.BlockAdmits true hat wb rn list)
    (h15 : list.getLsbD 15 = false)
    (hreach : s.BlockReaches (blockStart m (s.x rn) (listRegs list).length) (listRegs list).length .read) :
    exec (loadMultiple m c hat wb rn list) s = s.advanceFrom (s.blockLoaded m hat wb rn list) := by
  have hbank : usesUserBank true hat list = hat := by
    rw [usesUserBank, h15]
    cases hat <;> rfl
  rw [exec_loadMultiple_of_admits hc hadmits hreach, State.loadedBlock, h15, if_neg Bool.false_ne_true, hbank]
  rfl

theorem ne_fifteen_of_mem (h15 : list.getLsbD 15 = false) {i : RegNum} (hi : i ∈ listRegs list) : i ≠ 15#4 := by
  rintro rfl
  exact absurd (mem_listRegs.mp hi) (ne_true_of_eq_false h15)

/-- With S the registers are those of the user bank, and no base is written back. -/
theorem State.keepsIn_blockLoaded (hwb : hat = true → wb = false) :
    s.KeepsIn (s.blockLoaded m hat wb rn list) (s.transferBank hat) (if wb then rn :: listRegs list else listRegs list) := by
  cases hat with
  | false => exact State.keeps_iff_keepsIn.mp State.keeps_blockLoaded
  | true =>
    rw [hwb rfl]
    exact State.keepsIn_writeRegs rfl fun x hx => (List.of_mem_zip hx).1

end Load

theorem State.bankReg_withPc (s : State) (a : Word) (b : Bank) {i : RegNum} (hi : i ≠ 15#4) :
    State.bankReg { s with pc := a } b i = s.bankReg b i :=
  State.bankReg_congr_of_ne (s := s) (t := { s with pc := a }) rfl b i hi

/-- Settles O36: the registers and the base are those of the loaded state, whose frame is that of its writes. -/
theorem loadMultipleResult : Obligations.LoadMultipleResult := by
  unfold Obligations.LoadMultipleResult
  rintro m c hat wb rn list s ⟨hc, hpc⟩ hrn hlist h15 hbase hhat hreach
  have hadmits : s.BlockAdmits true hat wb rn list :=
    ⟨hrn, hlist, fun _ => hbase, fun h _ => hhat h, fun _ _ h => absurd h (ne_true_of_eq_false h15)⟩
  have hwb (h : hat = true) : wb = false := (hhat h).right
  rw [exec_loadMultiple_of_not_pc hc hadmits h15 hreach, State.advanceFrom_of_ne_top hpc]
  have hcpsr : (s.blockLoaded m hat wb rn list).cpsr = s.cpsr := State.blockLoaded_cpsr
  obtain ⟨hsystem, hspsrs, hbytes, hstored, hregs⟩ := State.keepsIn_blockLoaded (s := s) (m := m) (rn := rn) (list := list) hwb
  refine ⟨_, rfl, fun k i hk => ?listed, ?base, hcpsr, rfl, hsystem, fun b => (State.spsrOf_withPc _ _ b).trans (hspsrs b), hbytes,
    hstored, ?frame⟩
  case listed =>
    have hi := ne_fifteen_of_mem h15 (List.mem_of_getElem? hk)
    obtain ⟨hlt, -⟩ := List.getElem?_eq_some_iff.mp hk
    have hread := State.bankReg_blockLoaded (s := s) (m := m) (wb := wb) (rn := rn) (userBank := hat) rfl hk hi
    rw [← s.toNat_wordAt (hreach.toNat_wordAddr_mod hlt), ← hread]
    congr 1
    cases hat with
    | true =>
      rw [if_pos rfl]
      exact State.bankReg_withPc _ _ .usr hi
    | false =>
      rw [if_neg Bool.false_ne_true, State.x_withPc _ _ hi, State.x, hcpsr]
      rfl
  case base =>
    rintro rfl
    cases hat with
    | true => exact absurd (hwb rfl) (by decide)
    | false => rw [State.x_withPc _ _ hrn, State.x, hcpsr, State.bankReg_blockLoaded_base hrn (hbase rfl)]
  case frame => exact hregs

/-! ### Stores (45_block_data_transfer.md R265, R270 to R277) -/

theorem State.keeps_writeBackIf_single (s : State) (wb : Bool) (rn : RegNum) (v : Word) :
    s.Keeps (s.writeBackIf wb rn v) (if wb then [rn] else []) := s.keeps_writeBackIf wb rn v []

theorem State.x_writeBackIf_ite (s : State) (wb : Bool) {rn : RegNum} (hrn : rn ≠ 15#4) (v : Word) :
    (s.writeBackIf wb rn v).x rn = if wb then v else s.x rn := by
  cases wb with
  | false => rfl
  | true => exact (State.x_setX s rn rn v hrn).trans (if_pos rfl)

theorem State.abortBase_eq_writeBackIf (s : State) (wb : Bool) (rn : RegNum) (v : Word) :
    s.abortBase wb rn v = s.writeBackIf (wb && Config.abortBaseUpdated) rn v := rfl

theorem State.keeps_abortBase (s : State) (wb : Bool) (rn : RegNum) (v : Word) :
    s.Keeps (s.abortBase wb rn v) (if wb then [rn] else []) := by
  refine (s.keeps_writeBackIf_single (wb && Config.abortBaseUpdated) rn v).mono fun i hi => ?_
  cases wb with
  | false => cases hi
  | true =>
    cases hu : Config.abortBaseUpdated with
    | false => rw [hu] at hi; cases hi
    | true => rwa [hu] at hi

theorem State.x_abortBase (s : State) (wb : Bool) {rn : RegNum} (hrn : rn ≠ 15#4) (v : Word) :
    (s.abortBase wb rn v).x rn = if wb = true ∧ Config.abortBaseUpdated = true then v else s.x rn := by
  rw [State.abortBase_eq_writeBackIf, State.x_writeBackIf_ite _ _ hrn]
  simp only [Bool.and_eq_true]

/-- Stores and what an instruction keeps after them. -/
theorem State.Keeps.after_stores {s u t : State} {regs : List RegNum} (h : u.Keeps t regs) (hsystem : s.SameSystem u)
    (hspsrs : s.SameSpsrs u) (hregs : u.regs = s.regs) (hcpsr : u.cpsr = s.cpsr) :
    s.SameSystem t ∧ s.SameSpsrs t ∧ s.SameRegsBut t s.cpsr.mode.bank regs := by
  obtain ⟨⟨hvariant', hmemMap', hcoprocs', hlock', hinputs'⟩, hspsrs', -, -, hregs'⟩ := h
  obtain ⟨hvariant, hmemMap, hcoprocs, hlock, hinputs⟩ := hsystem
  rw [hcpsr] at hregs'
  exact ⟨⟨hvariant'.trans hvariant, hmemMap'.trans hmemMap, hcoprocs'.trans hcoprocs, hlock'.trans hlock, hinputs'.trans hinputs⟩,
    fun b => (hspsrs' b).trans (hspsrs b), fun q hq => (hregs' q hq).trans (State.phys_congr hregs q)⟩

section Store
variable {s : State} {m : BlockMode} {c : Cond} {hat wb : Bool} {rn : RegNum} {list : BitVec 16}

/-- The values that a store multiple stores, in the order of its list. -/
def State.storedRegs (s : State) (hat wb : Bool) (rn : RegNum) (list : BitVec 16) : List Word :=
  (listRegs list).map (s.storedReg hat wb rn list)

theorem State.length_storedRegs : (s.storedRegs hat wb rn list).length = (listRegs list).length := by simp [State.storedRegs]

/-- The base is free only where it is written back and is not the first of the list (45_block_data_transfer.md R276). -/
theorem State.storedReg_eq_blockWord {k : Nat} {i : RegNum} (hk : (listRegs list)[k]? = some i)
    (hfree : ¬ (i = rn ∧ wb = true ∧ k ≠ 0)) : s.storedReg hat wb rn list i = s.blockWord hat i := by
  have hnot : ¬ (i = rn ∧ storesFreeBase hat wb rn list = true) := by
    rintro ⟨rfl, hstores⟩
    simp only [storesFreeBase, Bool.and_eq_true, bne_iff_ne, ne_eq] at hstores
    obtain ⟨⟨⟨hwb, -⟩, -⟩, hhead⟩ := hstores
    refine hfree ⟨rfl, hwb, ?_⟩
    rintro rfl
    exact hhead (List.head?_eq_getElem?.trans hk)
  rw [State.storedReg, if_neg hnot]
  rfl

/-- The state of a store multiple that has stored the words `vals`. -/
def State.blockWritten (s : State) (m : BlockMode) (hat wb : Bool) (rn : RegNum) (list : BitVec 16) (vals : List Word) : State :=
  (s.storeFrom (blockStart m (s.x rn) (listRegs list).length) vals).drawn (if storesFreeBase hat wb rn list then 1 else 0)

section Exec
variable (hc : condPassed s.cpsr c = true) (hadmits : s.BlockAdmits false hat wb rn list)
include hc hadmits

theorem exec_storeMultiple_of_admits
    (hreach : s.BlockReaches (blockStart m (s.x rn) (listRegs list).length) (listRegs list).length .write) :
    exec (storeMultiple m c hat wb rn list) s =
      s.advanceFrom ((s.blockWritten m hat wb rn list (s.storedRegs hat wb rn list)).writeBackIf wb rn (s.blockWb m rn list)) := by
  rw [exec_storeMultiple, storeBlock, State.whenPassed_of_passed hc, State.checkedBlock_of_admits hadmits hreach]
  simp only [hreach.firstAbort, State.blockStored, State.blockStores]
  rw [← State.storedRegs, zip_wordAddrs_eq State.length_storedRegs, State.blockWritten]

theorem exec_storeMultiple_of_abort {j : Nat}
    (hreach : ∀ k < (listRegs list).length, s.Reaches false (wordAddr (blockStart m (s.x rn) (listRegs list).length) k))
    (hj : j < (listRegs list).length) (hbelow : s.BlockReaches (blockStart m (s.x rn) (listRegs list).length) j .write)
    (habort : s.aborts (wordAddr (blockStart m (s.x rn) (listRegs list).length) j) .word .write s.priv = true) :
    exec (storeMultiple m c hat wb rn list) s =
      ((s.blockWritten m hat wb rn list ((s.storedRegs hat wb rn list).take j)).abortBase wb rn (s.blockWb m rn list)).dataAbort := by
  rw [exec_storeMultiple, storeBlock, State.whenPassed_of_passed hc, State.checkedBlock_of_reaches hadmits hreach]
  simp only [hbelow.firstAbort_eq_some hj habort, State.blockStored, State.blockStores]
  rw [← State.storedRegs, take_zip_wordAddrs_eq State.length_storedRegs hj.le, State.blockWritten]

end Exec

theorem State.blockWritten_frame (vals : List Word) :
    (s.blockWritten m hat wb rn list vals).regs = s.regs ∧ (s.blockWritten m hat wb rn list vals).cpsr = s.cpsr ∧
      (s.blockWritten m hat wb rn list vals).pc = s.pc ∧ s.SameSystem (s.blockWritten m hat wb rn list vals) ∧
      s.SameSpsrs (s.blockWritten m hat wb rn list vals) := by
  obtain ⟨hregs, hcpsr, hpc, hsystem, hspsrs⟩ := s.storeFrom_frame (blockStart m (s.x rn) (listRegs list).length) vals
  exact ⟨hregs, hcpsr, hpc, hsystem, fun b => (State.spsrOf_drawn _ _ b).trans (hspsrs b)⟩

/-- What memory holds once the first `j` words are stored: those words, and every other byte as before. -/
theorem State.blockWritten_mem {t : State} {j : Nat} (hmem : s.MemOk) (hj : j ≤ (listRegs list).length)
    (haligned : ∀ k < j, (wordAddr (blockStart m (s.x rn) (listRegs list).length) k).toNat % 4 = 0)
    (hmem' : t.mem = (s.blockWritten m hat wb rn list ((s.storedRegs hat wb rn list).take j)).mem)
    (hstored : t.storedWords = (s.blockWritten m hat wb rn list ((s.storedRegs hat wb rn list).take j)).storedWords) :
    (∀ k < j, ∀ i, (listRegs list)[k]? = some i → ¬ (i = rn ∧ wb = true ∧ k ≠ 0) →
      t.leWord (wordAddr (blockStart m (s.x rn) (listRegs list).length) k).toNat = (s.blockWord hat i).toNat) ∧
    s.StoresWords t (blockStart m (s.x rn) (listRegs list).length) j := by
  have hlen : ((s.storedRegs hat wb rn list).take j).length = j := by
    rw [List.length_take, State.length_storedRegs, Nat.min_eq_left hj]
  have hsmall : j ≤ 2 ^ 30 := by
    have : (listRegs list).length ≤ 16 := by
      rw [listRegs, List.length_map]
      exact (List.length_filter_le ..).trans_eq List.length_range
    omega
  refine ⟨fun k hk i hi hfree => ?_, ?_⟩
  · have hval : ((s.storedRegs hat wb rn list).take j)[k]? = some (s.blockWord hat i) := by
      rw [List.getElem?_take_of_lt hk, State.storedRegs, List.getElem?_map, hi, Option.map_some,
        State.storedReg_eq_blockWord hi hfree]
    rw [State.leWord_congr hmem']
    exact State.leWord_storeFrom hmem (by rwa [hlen]) (by rwa [hlen]) hval
  · have hwords := State.storesWords_storeFrom (vals := (s.storedRegs hat wb rn list).take j) hmem (by rwa [hlen])
    rw [hlen] at hwords
    exact hwords.congr hmem' hstored

end Store

/-- Settles O38: all the words are stored, then the base is written back. -/
theorem storeMultipleResult : Obligations.StoreMultipleResult := by
  unfold Obligations.StoreMultipleResult
  rintro m c hat wb rn list s hmem ⟨hc, hpc⟩ hrn hlist hhat hreach
  have hadmits : s.BlockAdmits false hat wb rn list := ⟨hrn, hlist, fun h => (nomatch h), fun h _ => hhat h, fun _ h => nomatch h⟩
  rw [exec_storeMultiple_of_admits hc hadmits hreach, State.advanceFrom_of_ne_top hpc]
  have hall : (s.storedRegs hat wb rn list).take (listRegs list).length = s.storedRegs hat wb rn list :=
    List.take_of_length_le State.length_storedRegs.le
  obtain ⟨hregs, hcpsr, -, hsystem, hspsrs⟩ :=
    State.blockWritten_frame (s := s) (m := m) (hat := hat) (wb := wb) (rn := rn) (list := list) (s.storedRegs hat wb rn list)
  have hread := State.blockWritten_mem (t := (s.blockWritten m hat wb rn list (s.storedRegs hat wb rn list)).writeBackIf wb rn
    (s.blockWb m rn list)) (hat := hat) (wb := wb) hmem le_rfl (fun k hk => hreach.toNat_wordAddr_mod hk)
    (by rw [hall]; exact State.writeBackIf_mem ..) (by rw [hall]; exact State.writeBackIf_storedWords ..)
  generalize s.blockWritten m hat wb rn list (s.storedRegs hat wb rn list) = u at *
  obtain ⟨hwords, hstores⟩ := hread
  obtain ⟨hsystem', hspsrs', hregs'⟩ := (u.keeps_writeBackIf_single wb rn (s.blockWb m rn list)).after_stores hsystem hspsrs hregs hcpsr
  refine ⟨_, rfl, fun k i hk hfree => ?words, hstores, ?base, (u.writeBackIf_cpsr ..).trans hcpsr, rfl, hsystem',
    fun b => (State.spsrOf_withPc _ _ b).trans (hspsrs' b), hregs'⟩
  case words =>
    obtain ⟨hlt, -⟩ := List.getElem?_eq_some_iff.mp hk
    exact hwords k hlt i hk hfree
  case base =>
    rintro rfl
    exact (State.x_withPc _ _ hrn).trans ((u.x_writeBackIf_ite true hrn _).trans (if_pos rfl))

/-! ### Aborts (45_block_data_transfer.md R279) -/

/-- The number of a physical register, the same in every bank that shows it (10_state.md R23). -/
def PhysReg.number : PhysReg → RegNum
  | .r0 => 0 | .r1 => 1 | .r2 => 2 | .r3 => 3 | .r4 => 4 | .r5 => 5 | .r6 => 6 | .r7 => 7
  | .r8 | .r8Fiq => 8 | .r9 | .r9Fiq => 9 | .r10 | .r10Fiq => 10 | .r11 | .r11Fiq => 11 | .r12 | .r12Fiq => 12
  | .r13 | .r13Fiq | .r13Irq | .r13Svc | .r13Abt | .r13Und => 13
  | .r14 | .r14Fiq | .r14Irq | .r14Svc | .r14Abt | .r14Und => 14

theorem PhysReg.number_of_physReg {b : Bank} {i : RegNum} {p : PhysReg} (h : physReg b i = some p) : p.number = i := by
  have hall : ∀ b, ∀ i, ∀ p ∈ physReg b i, p.number = i := by
    intro b
    cases b <;> decide
  exact hall b i p h

/-- Writes in any bank leave a register of another number alone. -/
theorem State.SameRegsBut.x_eq {s u : State} {b : Bank} {regs : List RegNum} {i : RegNum} (h : s.SameRegsBut u b regs)
    (hcpsr : u.cpsr = s.cpsr) (hi : i ≠ 15#4) (hnot : i ∉ regs) : u.x i = s.x i := by
  obtain ⟨p, hp⟩ := Option.isSome_iff_exists.mp (physReg_isSome s.cpsr.mode.bank i hi)
  have hother : ∀ j ∈ regs, physReg b j ≠ some p := fun j hj hjp =>
    hnot ((PhysReg.number_of_physReg hp).symm.trans (PhysReg.number_of_physReg hjp) ▸ hj)
  rw [State.x, hcpsr, State.bankReg_eq_phys hp, h p hother, State.x, State.bankReg_eq_phys hp]

section LoadAbort
variable {s : State} {m : BlockMode} {c : Cond} {hat wb : Bool} {rn : RegNum} {list : BitVec 16}

/-- The state of an aborted load multiple: the base as `ABORT_BASE` says, the listed registers free. -/
def State.blockLoadAborted (s : State) (m : BlockMode) (hat wb : Bool) (rn : RegNum) (list : BitVec 16) : State :=
  ((s.abortBase wb rn (s.blockWb m rn list)).writeRegs (usesUserBank true hat list)
    ((listRegs list).zip ((List.range (listRegs list).length).map s.anyWord))).drawn (listRegs list).length

theorem exec_loadMultiple_of_abort {j : Nat} (hc : condPassed s.cpsr c = true) (hadmits : s.BlockAdmits true hat wb rn list)
    (hreach : ∀ k < (listRegs list).length, s.Reaches false (wordAddr (blockStart m (s.x rn) (listRegs list).length) k))
    (hj : j < (listRegs list).length)
    (habort : s.aborts (wordAddr (blockStart m (s.x rn) (listRegs list).length) j) .word .read s.priv = true) :
    exec (loadMultiple m c hat wb rn list) s = (s.blockLoadAborted m hat wb rn list).dataAbort := by
  obtain ⟨k, hk⟩ := State.exists_firstAbort hj habort
  rw [exec_loadMultiple, loadBlock, State.whenPassed_of_passed hc, State.checkedBlock_of_reaches hadmits hreach]
  simp only [hk]
  rfl

theorem State.transferBank_usesUserBank : s.transferBank (usesUserBank true hat list) =
    if hat = true ∧ list.getLsbD 15 = false then .usr else s.cpsr.mode.bank := by
  simp [State.transferBank, usesUserBank_iff]

theorem State.blockLoadAborted_cpsr : (s.blockLoadAborted m hat wb rn list).cpsr = s.cpsr :=
  (State.writeRegs_cpsr ..).trans (s.abortBase_cpsr ..)

theorem State.blockLoadAborted_pc : (s.blockLoadAborted m hat wb rn list).pc = s.pc :=
  (State.writeRegs_pc ..).trans (s.abortBase_pc ..)

/-- The writes of the listed registers, after those of the base. -/
theorem State.keepsIn_blockLoadAborted : (s.abortBase wb rn (s.blockWb m rn list)).KeepsIn (s.blockLoadAborted m hat wb rn list)
    (if hat = true ∧ list.getLsbD 15 = false then .usr else s.cpsr.mode.bank) (listRegs list) := by
  obtain ⟨hsystem, hspsrs, hbytes, hstored, hregs⟩ := State.keepsIn_writeRegs
    (l := (listRegs list).zip ((List.range (listRegs list).length).map s.anyWord)) (regs := listRegs list)
    (State.transferBank_congr (s.abortBase_cpsr wb rn (s.blockWb m rn list)) (State.transferBank_usesUserBank (hat := hat) (list := list)))
    fun x hx => (List.of_mem_zip hx).1
  exact ⟨hsystem, fun b => (State.spsrOf_drawn _ _ b).trans (hspsrs b), hbytes, hstored, hregs⟩

end LoadAbort

/-- Settles O39: the data abort is taken from the state with the words below the j-th stored, or with the listed registers free. -/
theorem blockTransferAborts : Obligations.BlockTransferAborts := by
  unfold Obligations.BlockTransferAborts
  refine ⟨fun m c hat wb rn list s j hmem hc hadmits hreach hj hbelow habort => ?store,
    fun m c hat wb rn list s j hc hadmits hreach hj habort => ?load⟩
  case store =>
    have hrn : rn ≠ 15#4 := hadmits.left
    rw [exec_storeMultiple_of_abort hc hadmits hreach hj hbelow habort]
    obtain ⟨hregs, hcpsr, hpc, hsystem, hspsrs⟩ := State.blockWritten_frame (s := s) (m := m) (hat := hat) (wb := wb) (rn := rn)
      (list := list) ((s.storedRegs hat wb rn list).take j)
    have hread := State.blockWritten_mem (t := (s.blockWritten m hat wb rn list ((s.storedRegs hat wb rn list).take j)).abortBase wb rn
      (s.blockWb m rn list)) (hat := hat) (wb := wb) hmem hj.le (fun k hk => hbelow.toNat_wordAddr_mod hk)
      (State.abortBase_mem ..) (State.abortBase_storedWords ..)
    generalize s.blockWritten m hat wb rn list ((s.storedRegs hat wb rn list).take j) = u at *
    obtain ⟨hwords, hstores⟩ := hread
    obtain ⟨t, hnext, hentered⟩ := State.dataAbort_entered (s := s) ((u.abortBase_pc wb rn (s.blockWb m rn list)).trans hpc)
    obtain ⟨hsystem', hspsrs', hregs'⟩ := (u.keeps_abortBase wb rn (s.blockWb m rn list)).after_stores hsystem hspsrs hregs hcpsr
    refine ⟨_, t, hnext, hentered, (u.abortBase_cpsr ..).trans hcpsr, hsystem', hspsrs', hregs', ?_, hwords, hstores⟩
    rw [u.x_abortBase wb hrn, State.x_congr hrn hregs (congrArg Cpsr.mode hcpsr), State.blockWb]
  case load =>
    have hrn : rn ≠ 15#4 := hadmits.left
    rw [exec_loadMultiple_of_abort hc hadmits hreach hj habort]
    have hcpsr := State.blockLoadAborted_cpsr (s := s) (m := m) (hat := hat) (wb := wb) (rn := rn) (list := list)
    obtain ⟨t, hnext, hentered⟩ := State.dataAbort_entered (s := s) (u := s.blockLoadAborted m hat wb rn list) State.blockLoadAborted_pc
    obtain ⟨⟨hvariant, hmemMap, hcoprocs, hlock, hinputs⟩, hspsrs, hbytes, hstored, hregs⟩ := s.keeps_abortBase wb rn (s.blockWb m rn list)
    obtain ⟨⟨hvariant', hmemMap', hcoprocs', hlock', hinputs'⟩, hspsrs', hbytes', hstored', hregs'⟩ :=
      State.keepsIn_blockLoadAborted (s := s) (m := m) (hat := hat) (wb := wb) (rn := rn) (list := list)
    refine ⟨_, t, hnext, hentered, hcpsr,
      ⟨hvariant'.trans hvariant, hmemMap'.trans hmemMap, hcoprocs'.trans hcoprocs, hlock'.trans hlock, hinputs'.trans hinputs⟩,
      fun b => (hspsrs' b).trans (hspsrs b), fun a => (hbytes' a).trans (hbytes a), hstored'.trans hstored, fun hnot => ?base,
      fun q hlisted hbase => ?regs⟩
    case base =>
      have hnotListed : rn ∉ listRegs list := fun h => absurd (mem_listRegs.mp h) (ne_true_of_eq_false hnot)
      rw [hregs'.x_eq (hcpsr.trans (s.abortBase_cpsr ..).symm) hrn hnotListed, s.x_abortBase wb hrn, State.blockWb]
    case regs =>
      refine (hregs' q hlisted).trans (hregs q fun i hi => ?_)
      cases wb with
      | false => cases hi
      | true =>
        obtain rfl := List.mem_singleton.mp hi
        exact hbase rfl

end Sys2Proof.Machine
end

section
/-! SWI (46_software_interrupt.md R290) and the way back from an exception (60_exceptions.md R354, R370). -/

namespace Sys2Proof.Machine

/-- Settles O41: the entry is all that SWI does. -/
theorem softwareInterruptEnters : Obligations.SoftwareInterruptEnters := by
  unfold Obligations.SoftwareInterruptEnters
  intro c y s hc
  exact ⟨_, State.whenPassed_of_passed hc _, s.takeException_entered _ _⟩

/-! ### The saved status is the whole status -/

theorem Mode.ofBits_toBits (m : Mode) : Mode.ofBits m.toBits = some m := by cases m <;> rfl

theorem Mode.toBits_inj {m m' : Mode} (h : m.toBits = m'.toBits) : m = m' :=
  Option.some.inj (m.ofBits_toBits.symm.trans (h ▸ m'.ofBits_toBits))

theorem Cpsr.toPsr_inj {p q : Cpsr} (h : p.toPsr = q.toPsr) : p = q := by
  obtain ⟨n, z, c, v, i, f, m⟩ := p
  obtain ⟨n', z', c', v', i', f', m'⟩ := q
  simp only [Cpsr.toPsr, Psr.mk.injEq] at h
  obtain ⟨rfl, rfl, rfl, rfl, rfl, rfl, hm⟩ := h
  rw [Mode.toBits_inj hm]

/-- A 26-bit mode is told by M[1:0]. -/
theorem Mode.toBits_of_is26 {m : Mode} (h : m.is26 = true) : m.toBits = 0b000#3 ++ m.toBits.extractLsb' 0 2 := by
  revert h
  cases m <;> decide

/-- The 26-bit layout of a status, written from a privileged mode, gives the status back. -/
theorem WrotePsr26.eq_of_psrWord26 {p q r : Cpsr} {a : Word} (h : WrotePsr26 p q (psrWord26 r a))
    (hp : p.mode.isPrivileged = true) (hr : r.mode.is26 = true) : q = r := by
  obtain ⟨hn, hz, hc, hv, hcontrol, -⟩ := h
  obtain ⟨hi, hf, hm⟩ := hcontrol hp
  obtain ⟨hn', hz', hc', hv', hi', hf'⟩ := psrWord26_flags r a
  rw [psrWord26_mode, ← Mode.toBits_of_is26 hr] at hm
  apply Cpsr.toPsr_inj
  rw [Cpsr.toPsr, hn, hz, hc, hv, hi, hf, hm, hn', hz', hc', hv', hi', hf', Cpsr.toPsr]

/-! ### The saved address is a legal pc -/

theorem and_pcMask32_of_aligned {a : Word} (h : a.extractLsb' 0 2 = 0#2) : a &&& 0xFFFFFFFC#32 = a := by
  have haligned : a.toNat % 4 = 0 := (isAligned_iff a).mp (beq_iff_eq.mpr h)
  exact BitVec.eq_of_toNat_eq (wordBase_of_aligned haligned)

theorem and_pcMask26_of_aligned {a : Word} (h : a.extractLsb' 0 2 = 0#2) (hlow : a.extractLsb' 26 6 = 0#6) :
    a &&& 0x03FFFFFC#32 = a := by
  have hlt : a.toNat < 2 ^ 26 := (above64M_eq_false_iff a).mp (bne_eq_false_iff_eq.mpr hlow)
  have hmask : 0x03FFFFFC#32 = 0xFFFFFFFC#32 &&& 0x03FFFFFF#32 := by decide
  rw [hmask, ← BitVec.and_assoc, and_pcMask32_of_aligned h]
  exact BitVec.eq_of_toNat_eq ((toNat_and_mask26 a).trans (Nat.mod_eq_of_lt hlt))

/-! ### The return -/

section Return
variable {s : State} {k : Exc} {ret : Word}

theorem Exc.isPrivileged_mode (k : Exc) (v : Variant) : (k.mode v).isPrivileged = true := by cases k <;> cases v <;> rfl

theorem State.takeException_is26 : (s.takeException k ret).is26 = !s.variant.isArm6Plus := by
  rw [State.is26, State.takeException_cpsr, Exc.is26_mode]

theorem State.takeException_spsr (hv : s.variant.isArm6Plus = true) : (s.takeException k ret).spsr = some s.cpsr.toPsr := by
  rw [State.spsr, State.takeException_spsrOf, State.takeException_cpsr, if_pos ⟨hv, rfl⟩]

/-- `MOVS PC,R14` is the return form of R14, whatever the flags. -/
theorem exec_movs_pc_r14 (u : State) :
    exec (.mov .al true 15#4 0#4 (.shiftImm 14#4 .lsl 0#5)) u = u.returnTo (u.x 14#4) := by
  have hadmits : DataOp.mov.Admits 0#4 (.shiftImm 14#4 .lsl 0#5) := ⟨fun _ => rfl, fun _ _ _ h => nomatch h⟩
  exact (exec_dataOp_fifteen (op := .mov) (c := .al) (s := u) rfl hadmits).trans (if_pos rfl)

/-- The status and the pc can always be restored right after an entry. -/
theorem State.takeException_canReturn (hrange : s.is26 = true → ret.extractLsb' 26 6 = 0#6) :
    (s.takeException k ret).CanReturn ((s.takeException k ret).x 14#4) := by
  intro h32
  have hv : s.variant.isArm6Plus = true := by
    rw [State.takeException_is26] at h32
    simpa using h32
  rw [State.takeException_x14, if_pos hv]
  exact ⟨_, s.cpsr.mode, State.takeException_spsr hv, Mode.ofBits_toBits _, hrange⟩

end Return

/-- Settles O43: on `pre6` R14 holds status and address, on `arm6plus` the SPSR and R14 hold them. -/
theorem returnFromException : Obligations.ReturnFromException := by
  unfold Obligations.ReturnFromException
  intro s k ret hmodeOk haligned hrange
  rw [exec_movs_pc_r14]
  obtain ⟨p, hnext, hreturned26, hreturned32⟩ := State.returnTo_of_canReturn (State.takeException_canReturn (k := k) hrange)
  rw [State.takeException_is26, State.takeException_x14] at hreturned26 hreturned32
  refine ⟨_, hnext, ?pc, ?cpsr, (((State.keeps_refl _ []).setCpsr p).jumps _)⟩
  case pc =>
    cases hv : s.variant.isArm6Plus with
    | false =>
      obtain ⟨hpc, -⟩ := hreturned26 (by rw [hv]; rfl)
      rw [hv, if_neg Bool.false_ne_true, psrWord26_and_pcMask26] at hpc
      rw [State.takeException_x14, hv, if_neg Bool.false_ne_true, hpc, and_pcMask26_of_aligned haligned (hrange (hmodeOk hv))]
    | true =>
      obtain ⟨hpc, -⟩ := hreturned32 (by rw [hv]; rfl)
      rw [hv, if_pos rfl] at hpc
      rw [State.takeException_x14, hv, if_pos rfl, hpc, and_pcMask32_of_aligned haligned]
  case cpsr =>
    cases hv : s.variant.isArm6Plus with
    | false =>
      obtain ⟨-, hwrote⟩ := hreturned26 (by rw [hv]; rfl)
      rw [hv, if_neg Bool.false_ne_true] at hwrote
      refine hwrote.eq_of_psrWord26 ?_ (hmodeOk hv)
      rw [State.takeException_cpsr]
      exact k.isPrivileged_mode s.variant
    | true =>
      obtain ⟨-, hspsr⟩ := hreturned32 (by rw [hv]; rfl)
      rw [State.takeException_spsr hv] at hspsr
      exact (Cpsr.toPsr_inj (Option.some.inj hspsr)).symm

end Sys2Proof.Machine
end

section
/-! The single data swaps (48_swap.md R321, R322). -/

namespace Sys2Proof.Machine

/-- The swap instruction of a size. -/
def swapInstr (byte : Bool) (c : Cond) (rn rd rm : RegNum) : Instr := if byte then .swpb c rn rd rm else .swp c rn rd rm

/-- The state of a swap that has stored `v` and let LOCK go low again. -/
def State.swapStored (s : State) (byte : Bool) (addr v : Word) : State :=
  (if byte then (s.setLock true).storeByte addr (v.extractLsb' 0 8) else (s.setLock true).storeWord addr v).setLock false

section Swap
variable {s : State} {byte : Bool} {c : Cond} {rn rd rm : RegNum}

theorem exec_swapInstr_of_r15 (hc : condPassed s.cpsr c = true) (h : rn = 15#4 ∨ rd = 15#4 ∨ rm = 15#4) :
    exec (swapInstr byte c rn rd rm) s = .refused .swpR15 := by
  cases byte with
  | false => exact (State.whenPassed_of_passed hc _).trans (if_pos h)
  | true => exact (State.whenPassed_of_passed hc _).trans (if_pos h)

/-- The swap of either size: its checks, its two accesses, and what it writes. -/
theorem exec_swapInstr (hc : condPassed s.cpsr c = true) (hrn : rn ≠ 15#4) (hrd : rd ≠ 15#4) (hrm : rm ≠ 15#4) :
    exec (swapInstr byte c rn rd rm) s =
      if !byte && !isAligned (s.x rn) then .refused .unalignedWord
      else if s.outOfRange (s.x rn) then .fault .addressAbove64M
      else if s.aborts (s.x rn) (transferSize byte) .read s.priv then (s.setLock false).dataAbort
      else if s.aborts (s.x rn) (transferSize byte) .write s.priv then (s.setLock false).dataAbort
      else s.advanceFrom ((s.swapStored byte (s.x rn) (s.x rm)).setX rd (s.loadedValue byte (s.x rn))) := by
  have hnot : ¬ (rn = 15#4 ∨ rd = 15#4 ∨ rm = 15#4) := by tauto
  cases byte with
  | false => exact (State.whenPassed_of_passed hc _).trans (if_neg hnot)
  | true => exact (State.whenPassed_of_passed hc _).trans (if_neg hnot)

theorem exec_swapInstr_of_reaches (hc : condPassed s.cpsr c = true) (hrn : rn ≠ 15#4) (hrd : rd ≠ 15#4) (hrm : rm ≠ 15#4)
    (hreach : s.Reaches byte (s.x rn)) : exec (swapInstr byte c rn rd rm) s =
      if s.aborts (s.x rn) (transferSize byte) .read s.priv then (s.setLock false).dataAbort
      else if s.aborts (s.x rn) (transferSize byte) .write s.priv then (s.setLock false).dataAbort
      else s.advanceFrom ((s.swapStored byte (s.x rn) (s.x rm)).setX rd (s.loadedValue byte (s.x rn))) := by
  rw [exec_swapInstr hc hrn hrd hrm, if_neg hreach.not_unaligned, hreach.outOfRange, if_neg Bool.false_ne_true]

theorem exec_swapInstr_of_through (hc : condPassed s.cpsr c = true) (hrn : rn ≠ 15#4) (hrd : rd ≠ 15#4) (hrm : rm ≠ 15#4)
    (hreach : s.Reaches byte (s.x rn)) (hread : s.aborts (s.x rn) (transferSize byte) .read s.priv = false)
    (hwrite : s.aborts (s.x rn) (transferSize byte) .write s.priv = false) : exec (swapInstr byte c rn rd rm) s =
      s.advanceFrom ((s.swapStored byte (s.x rn) (s.x rm)).setX rd (s.loadedValue byte (s.x rn))) := by
  rw [exec_swapInstr_of_reaches hc hrn hrd hrm hreach, hread, hwrite, if_neg Bool.false_ne_true, if_neg Bool.false_ne_true]

/-- LOCK is no part of what `State.StoredAt` says. -/
theorem State.StoredAt.of_locked {u : State} {addr : Word} {n : Nat} (h : (s.setLock true).StoredAt u addr n) :
    s.StoredAt (u.setLock false) addr n := by
  obtain ⟨hvariant, hmemMap, hcoprocs, hinputs, hspsrs, hbytes, hstored, hregs, hcpsr⟩ := h
  have hlow (v : State) (high : Bool) (b : Bank) : (v.setLock high).spsrOf b = v.spsrOf b := by cases b <;> rfl
  exact ⟨hvariant, hmemMap, hcoprocs, hinputs, fun b => (hlow u false b).trans ((hspsrs b).trans (hlow s true b)), hbytes, hstored,
    hregs, hcpsr⟩

variable {addr : Word} (hmem : s.MemOk) (hreach : s.Reaches byte addr)
include hmem hreach

theorem State.storedAt_swapStored (v : Word) : s.StoredAt (s.swapStored byte addr v) addr (if byte then 1 else 4) := by
  obtain ⟨haligned, -⟩ := hreach
  cases byte with
  | false => exact (State.storedAt_storeWord (s := s.setLock true) hmem (haligned rfl) v).of_locked
  | true => exact (State.storedAt_storeByte (s := s.setLock true) hmem _).of_locked

theorem State.read_swapStored (v : Word) :
    if byte then ((s.swapStored byte addr v).byteAt addr.toNat).toNat = v.toNat % 2 ^ 8
    else (s.swapStored byte addr v).leWord addr.toNat = v.toNat := by
  obtain ⟨haligned, -⟩ := hreach
  cases byte with
  | false =>
    rw [if_neg Bool.false_ne_true, ← State.toNat_wordAt _ (haligned rfl)]
    exact congrArg BitVec.toNat (State.wordAt_storeWord (s := s.setLock true) hmem v)
  | true =>
    rw [if_pos rfl]
    exact (congrArg BitVec.toNat ((State.byteAt_storeByte (s := s.setLock true) hmem _ _).trans (if_pos rfl))).trans
      (toNat_bottomByte _)

end Swap

/-- Settles O49: both reads are of the state at the start, and Rd is written after the store. -/
theorem swapResult : Obligations.SwapResult := by
  unfold Obligations.SwapResult
  rintro c byte rn rd rm s hmem ⟨hc, hpc⟩ hrn hrd hrm hreach hread hwrite
  rw [← swapInstr, exec_swapInstr_of_through hc hrn hrd hrm hreach hread hwrite, State.advanceFrom_of_ne_top hpc,
    ← State.toNat_loadedValue hreach]
  have hstored := State.storedAt_swapStored hmem hreach (s.x rm)
  have hholds := State.read_swapStored hmem hreach (s.x rm)
  have hlock : (s.swapStored byte (s.x rn) (s.x rm)).lock = false := rfl
  generalize s.loadedValue byte (s.x rn) = v, s.swapStored byte (s.x rn) (s.x rm) = u at *
  refine ⟨_, rfl, ?value, ?holds, (u.setX_cpsr rd v).trans hstored.cpsr, (u.setX_lock rd v).trans hlock,
    hstored.storesAt (u.keeps_setX (List.mem_singleton_self rd) v)⟩
  case value => rw [State.x_withPc _ _ hrd, State.x_setX _ _ _ _ hrd, if_pos rfl]
  case holds =>
    rw [← State.leWord_congr (u.setX_mem rd v), ← State.byteAt_congr (u.setX_mem rd v)] at hholds
    exact hholds

theorem State.setLock_false_of_low {s : State} (h : s.lock = false) : s.setLock false = s := by
  cases s
  cases h
  rfl

/-- Settles O50: the checks in their order; an abort of either access is taken with nothing written. -/
theorem swapStopsAndAborts : Obligations.SwapStopsAndAborts := by
  unfold Obligations.SwapStopsAndAborts
  intro c byte rn rd rm s hc
  refine ⟨fun h => exec_swapInstr_of_r15 hc h, fun hrn hrd hrm hbyte hne => ?unaligned, fun hrn hrd hrm haligned hv habove => ?above,
    fun hrn hrd hrm hreach hlow habort => ?abort⟩
  case unaligned => rw [← swapInstr, exec_swapInstr hc hrn hrd hrm, if_pos ((unaligned_iff ..).mpr ⟨hbyte, hne⟩)]
  case above =>
    rw [← swapInstr, exec_swapInstr hc hrn hrd hrm, if_neg (mt (unaligned_iff ..).mp fun ⟨hb, hne⟩ => hne (haligned hb)),
      if_pos ((s.outOfRange_eq_true_iff _).mpr ⟨hv, habove⟩)]
  case abort =>
    have haborts : exec (swapInstr byte c rn rd rm) s = s.dataAbort := by
      rw [exec_swapInstr_of_reaches hc hrn hrd hrm hreach, State.setLock_false_of_low hlow]
      split_ifs with hread hwrite
      · rfl
      · rfl
      · exact absurd habort (by tauto)
    rw [← swapInstr, haborts]
    exact State.dataAbort_entered rfl

end Sys2Proof.Machine
end

section
/-! The status transfers (49_status_transfer_and_undefined.md R331 to R337): MRS, MSR to an SPSR, and where both stop. -/

namespace Sys2Proof.Machine

/-! ### MRS (49_status_transfer_and_undefined.md R332, R333) -/

/-- The fields of a status stand in `PSRword` where 10_state.md R29 puts them, whatever the reserved bits. -/
theorem Psr.toWord_fields (p : Psr) (r : Word) :
    (p.toWord r).getLsbD 31 = p.n ∧ (p.toWord r).getLsbD 30 = p.z ∧ (p.toWord r).getLsbD 29 = p.c ∧
      (p.toWord r).getLsbD 28 = p.v ∧ (p.toWord r).getLsbD 7 = p.i ∧ (p.toWord r).getLsbD 6 = p.f ∧
      (p.toWord r).extractLsb' 0 5 = p.m := by
  unfold Psr.toWord
  refine ⟨?_, ?_, ?_, ?_, ?_, ?_, ?m⟩
  case m => rw [extractLsb'_append_lower _ _ 0 5 (le_refl 5), BitVec.extractLsb'_eq_self]
  all_goals
    simp only [getLsbD_append_upper, getLsbD_append_lower, getLsbD_ofBool_zero, Nat.reduceLeDiff, Nat.reduceLT, Nat.reduceSub]

section Mrs
variable {s : State} {c : Cond} {spsr : Bool} {rd : RegNum}

theorem exec_mrs_of_passed (hc : condPassed s.cpsr c = true) : exec (.mrs c spsr rd) s =
    if rd = 15#4 then .refused .mrsR15
    else match (if spsr then s.spsr else some s.cpsr.toPsr) with
      | none => .refused .spsrInUser
      | some p => s.readPsr rd p := by
  cases spsr with
  | false => exact State.whenPassed_of_passed hc _
  | true => exact State.whenPassed_of_passed hc _

theorem exec_mrs_of_some {p : Psr} (hc : condPassed s.cpsr c = true) (hrd : rd ≠ 15#4)
    (hp : (if spsr then s.spsr else some s.cpsr.toPsr) = some p) :
    exec (.mrs c spsr rd) s = s.advanceFrom ((s.setX rd (p.toWord (s.anyWord 0))).drawn 1) := by
  rw [exec_mrs_of_passed hc, if_neg hrd, hp]
  rfl

end Mrs

/-- Settles O51: Rd holds the status word, whose reserved bits are drawn. -/
theorem mrsReadsAStatus : Obligations.MrsReadsAStatus := by
  unfold Obligations.MrsReadsAStatus
  rintro c spsr rd s p ⟨hc, hpc⟩ hrd hp
  rw [exec_mrs_of_some hc hrd hp, State.advanceFrom_of_ne_top hpc]
  have hx : State.x { (s.setX rd (p.toWord (s.anyWord 0))).drawn 1 with pc := s.pc + 4 } rd = p.toWord (s.anyWord 0) :=
    State.x_of_regs_setX hrd rfl (congrArg Cpsr.mode (s.setX_cpsr rd _))
  refine ⟨_, rfl, ((s.keeps_setX (List.mem_singleton_self rd) _).drawn 1).stepsOn, s.setX_cpsr rd _, ?_⟩
  rw [hx]
  exact p.toWord_fields _

/-! ### MSR (49_status_transfer_and_undefined.md R335 to R337) -/

section Msr
variable {s : State} {c : Cond} {spsr : Bool} {part : PsrPart} {i : Instr} {v : Word}

/-- Both forms of MSR, past the condition and the check of Rm, write their source word. -/
theorem exec_msr_of_passed (hc : condPassed s.cpsr c = true)
    (hi : (∃ rm, rm ≠ 15#4 ∧ i = .msrReg c spsr part rm ∧ v = s.x rm) ∨
      (∃ r b, i = .msrImm c spsr part r b ∧ v = rotatedImm r b)) :
    exec i s = s.writePsr spsr part v := by
  obtain ⟨rm, hrm, rfl, rfl⟩ | ⟨r, b, rfl, rfl⟩ := hi
  · exact (State.whenPassed_of_passed hc _).trans (if_neg hrm)
  · exact State.whenPassed_of_passed hc _

theorem State.writePsr_spsr_of_some {p : Psr} (hp : s.spsr = some p) : s.writePsr true part v =
    s.advanceFrom (s.setSpsrOf s.cpsr.mode.bank (p.writeFields part v)) := by
  rw [State.writePsr, if_pos rfl, hp]

theorem State.writePsr_spsr_of_user (huser : s.isPrivileged = false) : s.writePsr true part v = .refused .spsrInUser := by
  rw [State.writePsr, if_pos rfl, State.spsr_eq_none_iff.mpr huser]

/-- `WritePSRfields` on an SPSR: what `aaaa` names is that of `v`, the rest as before. -/
theorem Psr.writeFields_fields (p : Psr) (part : PsrPart) (v : Word) :
    (if part = .ctl then
        (p.writeFields part v).n = p.n ∧ (p.writeFields part v).z = p.z ∧ (p.writeFields part v).c = p.c ∧
          (p.writeFields part v).v = p.v
      else (p.writeFields part v).n = v.getLsbD 31 ∧ (p.writeFields part v).z = v.getLsbD 30 ∧
        (p.writeFields part v).c = v.getLsbD 29 ∧ (p.writeFields part v).v = v.getLsbD 28) ∧
    (if part = .flg then
        (p.writeFields part v).i = p.i ∧ (p.writeFields part v).f = p.f ∧ (p.writeFields part v).m = p.m
      else (p.writeFields part v).i = v.getLsbD 7 ∧ (p.writeFields part v).f = v.getLsbD 6 ∧
        (p.writeFields part v).m = v.extractLsb' 0 5) := by
  cases part with
  | ctl | flg | all => exact ⟨⟨rfl, rfl, rfl, rfl⟩, rfl, rfl, rfl⟩

end Msr

/-- Settles O53: one SPSR is written, that of the mode, which is not user mode. -/
theorem msrWritesTheSpsr : Obligations.MsrWritesTheSpsr := by
  unfold Obligations.MsrWritesTheSpsr
  rintro c part i v s p ⟨hc, hpc⟩ hp hi
  rw [exec_msr_of_passed hc hi, State.writePsr_spsr_of_some hp, State.advanceFrom_of_ne_top hpc]
  have hbank : s.cpsr.mode.bank ≠ .usr := by
    intro h
    rw [State.spsr, h] at hp
    cases hp
  have hspsrs (b : Bank) := s.spsrOf_setSpsrOf s.cpsr.mode.bank b (p.writeFields part v) hbank
  have hcpsr := s.setSpsrOf_cpsr s.cpsr.mode.bank (p.writeFields part v)
  have hregs := s.setSpsrOf_regs s.cpsr.mode.bank (p.writeFields part v)
  have hmem := s.setSpsrOf_mem s.cpsr.mode.bank (p.writeFields part v)
  have hsystem : s.SameSystem (s.setSpsrOf s.cpsr.mode.bank (p.writeFields part v)) :=
    ⟨by simp, by simp, by simp, by simp, by simp⟩
  obtain ⟨hflags, hcontrol⟩ := p.writeFields_fields part v
  generalize s.setSpsrOf s.cpsr.mode.bank (p.writeFields part v) = u at *
  refine ⟨_, p.writeFields part v, rfl, ?spsr, hcpsr, rfl, hflags, hcontrol, fun b hb => ?others, hsystem,
    fun a => State.byteAt_congr (s := s) (t := { u with pc := s.pc + 4 }) hmem a,
    fun q _ => State.phys_congr (s := s) (t := { u with pc := s.pc + 4 }) hregs q⟩
  case spsr => rw [State.spsr, State.spsrOf_withPc, hcpsr, hspsrs, if_pos rfl]
  case others => rw [State.spsrOf_withPc, hspsrs, if_neg (Ne.symm hb)]

/-! ### Where they stop -/

section Stops
variable {s : State} {part : PsrPart} {v : Word}

theorem State.writePsr_of_illegal (hcontrol : s.cpsr.ControlWritten part) (hm : Mode.ofBits (v.extractLsb' 0 5) = none) :
    s.writePsr false part v = .refused .modeIllegal := by
  rw [State.writePsr, if_neg Bool.false_ne_true, Cpsr.writeFields_of_control hcontrol, hm]
  rfl

theorem State.writePsr_of_above {q : Cpsr} (hq : s.cpsr.writeFields part v = some q) (h26 : q.mode.is26 = true)
    (habove : above64M (s.pc + 4) = true) : s.writePsr false part v = .refused .pcAbove64MIn26bit := by
  simp only [State.writePsr, if_neg Bool.false_ne_true, hq, h26, habove, Bool.and_self, if_true]

/-- A 26-bit mode afterwards, whether `v` names it or it is kept. -/
theorem State.exists_writeFields_is26
    (h : if part ≠ .flg ∧ s.isPrivileged = true then ∃ m, Mode.ofBits (v.extractLsb' 0 5) = some m ∧ m.is26 = true
      else s.is26 = true) : ∃ q, s.cpsr.writeFields part v = some q ∧ q.mode.is26 = true := by
  by_cases hcontrol : s.cpsr.ControlWritten part
  · obtain ⟨m, hm, h26⟩ := (if_pos hcontrol).mp h
    exact ⟨_, by rw [Cpsr.writeFields_of_control hcontrol, hm, Option.map_some], h26⟩
  · refine ⟨_, Cpsr.writeFields_of_not_control hcontrol, ?_⟩
    obtain ⟨-, -, hmode⟩ := Cpsr.writeFlags_control (p := s.cpsr) (part := part) (v := v)
    rw [hmode]
    exact (if_neg hcontrol).mp h

end Stops

/-- Settles O54: R15, user mode, and the two refusals of a write of the CPSR. -/
theorem statusTransferRefused : Obligations.StatusTransferRefused := by
  unfold Obligations.StatusTransferRefused
  intro c s hc
  refine ⟨fun spsr => ?mrsR15, fun spsr part => ?msrR15, fun huser part rd r b hrd => ⟨?mrsUser, ?msrRegUser, ?msrImmUser⟩,
    fun i part v hi => ⟨fun hpart hpriv hm => ?illegal, fun h26 habove => ?above⟩⟩
  case mrsR15 => rw [exec_mrs_of_passed hc, if_pos rfl]
  case msrR15 => exact (State.whenPassed_of_passed hc _).trans (if_pos rfl)
  case mrsUser => rw [exec_mrs_of_passed hc, if_neg hrd, if_pos rfl, State.spsr_eq_none_iff.mpr huser]
  case msrRegUser => rw [exec_msr_of_passed hc (.inl ⟨rd, hrd, rfl, rfl⟩), State.writePsr_spsr_of_user huser]
  case msrImmUser => rw [exec_msr_of_passed hc (.inr ⟨r, b, rfl, rfl⟩), State.writePsr_spsr_of_user huser]
  case illegal => rw [exec_msr_of_passed hc hi, State.writePsr_of_illegal ⟨hpart, hpriv⟩ hm]
  case above =>
    obtain ⟨q, hq, hq26⟩ := State.exists_writeFields_is26 h26
    rw [exec_msr_of_passed hc hi, State.writePsr_of_above hq hq26 (bne_iff_ne.mpr habove)]

end Sys2Proof.Machine
end

section
/-! The coprocessor instructions that a coprocessor accepts (47_coprocessor.md R298 to R304). -/

namespace Sys2Proof.Machine

/-! ### The response and the checks -/

section Responds
variable {s : State} {p : RegNum} {w : Word} {st : Coproc}

theorem State.responder_of_accepts (hst : s.coprocs[p.toNat]'p.isLt = some st) (haccepts : ∃ a ∈ st.accepts, w &&& a.mask = a.value) :
    s.responder p w = some st := by
  unfold State.responder
  rw [hst]
  exact if_pos (by simpa using haccepts)

theorem State.withResponder_of_some (h : s.responder p w = some st) (body : Coproc → Result) : s.withResponder p w body = body st := by
  rw [State.withResponder, h]

end Responds

section Checks
variable {s : State} {ix : Indexing} {up : Bool} {rn : RegNum} {o : BitVec 8} {n j : Nat} {dir : AccessDir}

theorem not_ldcWritebackR15 (hrn : ix ≠ .pre → rn ≠ 15#4) : ¬ (rn = 15#4 ∧ writesBack ix) :=
  fun ⟨h15, hix⟩ => hrn (writesBack_iff.mp hix) h15

theorem State.checkedCoproc_of_unaligned (h : (s.coprocAddr ix up rn o).toNat % 4 ≠ 0) (access : List Word → Result) :
    s.checkedCoproc ix up rn o n dir access = .refused .unalignedWord := by
  refine if_pos ?_
  rw [Bool.not_eq_true', ← Bool.not_eq_true, isAligned_iff]
  exact h

theorem State.checkedCoproc_of_aligned (h : (s.coprocAddr ix up rn o).toNat % 4 = 0) (access : List Word → Result) :
    s.checkedCoproc ix up rn o n dir access =
      if rn = 15#4 ∧ writesBack ix then .refused .ldcWritebackR15
      else if (s.reached (wordAddrs (s.coprocAddr ix up rn o) n) dir s.priv).any s.outOfRange then .fault .addressAbove64M
      else access (wordAddrs (s.coprocAddr ix up rn o) n) := by
  simp only [State.checkedCoproc, (isAligned_iff _).mpr h, Bool.not_true, Bool.false_eq_true, if_false]

/-- Past its checks a transfer comes to its accesses, of which those reached are in range. -/
theorem State.checkedCoproc_of_reached (h : (s.coprocAddr ix up rn o).toNat % 4 = 0) (hrn : ix ≠ .pre → rn ≠ 15#4)
    (hreached : (s.reached (wordAddrs (s.coprocAddr ix up rn o) n) dir s.priv).any s.outOfRange = false) (access : List Word → Result) :
    s.checkedCoproc ix up rn o n dir access = access (wordAddrs (s.coprocAddr ix up rn o) n) := by
  rw [State.checkedCoproc_of_aligned h, if_neg (not_ldcWritebackR15 hrn), hreached, if_neg Bool.false_ne_true]

theorem State.checkedCoproc_of_through (hrn : ix ≠ .pre → rn ≠ 15#4) (hn : 0 < n)
    (hreach : s.BlockReaches (s.coprocAddr ix up rn o) n dir) (access : List Word → Result) :
    s.checkedCoproc ix up rn o n dir access = access (wordAddrs (s.coprocAddr ix up rn o) n) := by
  refine State.checkedCoproc_of_reached ((isAligned_iff _).mp (hreach.isAligned hn)) hrn ?_ access
  rw [State.reached_of_none hreach.firstAbort]
  exact hreach.inRange

/-- A transfer whose j-th access is the first that aborts comes to it. -/
theorem State.checkedCoproc_of_abort (hrn : ix ≠ .pre → rn ≠ 15#4) (hj : j < n)
    (hlast : s.Reaches false (wordAddr (s.coprocAddr ix up rn o) j)) (hbelow : s.BlockReaches (s.coprocAddr ix up rn o) j dir)
    (habort : s.aborts (wordAddr (s.coprocAddr ix up rn o) j) .word dir s.priv = true) (access : List Word → Result) :
    s.checkedCoproc ix up rn o n dir access = access (wordAddrs (s.coprocAddr ix up rn o) n) := by
  refine State.checkedCoproc_of_reached ((wordAddr_mod_four_iff _ j).mp (hlast.left rfl)) hrn ?_ access
  rw [State.reached_of_some (hbelow.firstAbort_eq_some hj habort), take_wordAddrs hj]
  refine State.any_outOfRange_of_reaches fun k hk => ?_
  obtain hlt | rfl := Nat.lt_succ_iff_lt_or_eq.mp hk
  · exact (hbelow k hlt).left
  · exact hlast

/-- An address above 64 MBytes that the transfer comes to is reached, whether or not an access aborts there or later. -/
theorem State.any_outOfRange_reached {start : Word} (hj : j < n) (hbelow : s.BlockReaches start j dir)
    (hv : s.variant.isArm6Plus = false) (habove : 2 ^ 26 ≤ (wordAddr start j).toNat) :
    (s.reached (wordAddrs start n) dir s.priv).any s.outOfRange = true := by
  cases hfirst : s.firstAbort (wordAddrs start n) dir s.priv with
  | none =>
    rw [State.reached_of_none hfirst]
    exact State.any_outOfRange_iff.mpr ⟨j, hj, hv, habove⟩
  | some k =>
    have hk := hfirst
    rw [State.firstAbort, List.findIdx?_eq_some_iff_getElem] at hk
    obtain ⟨hkn, habort, -⟩ := hk
    rw [length_wordAddrs] at hkn
    simp only [wordAddrs_eq_map, List.getElem_map, List.getElem_range] at habort
    have hjk : j ≤ k := not_lt.mp fun hkj => absurd habort (ne_true_of_eq_false (hbelow k hkj).right)
    rw [State.reached_of_some hfirst, take_wordAddrs hkn]
    exact State.any_outOfRange_iff.mpr ⟨j, Nat.lt_succ_of_le hjk, hv, habove⟩

end Checks

/-! ### The frame but for the coprocessors -/

/-- What a coprocessor instruction that stores nothing keeps: all but the pc, the status, the coprocessors and `regs`. -/
def State.KeepsArm (s t : State) (regs : List RegNum) : Prop :=
  s.SameSpsrs t ∧ s.SameBytes t ∧ t.storedWords = s.storedWords ∧ t.lock = s.lock ∧ s.SameRegsBut t s.cpsr.mode.bank regs

section Frame
variable {s u : State} {p : RegNum} {st : Coproc} {regs : List RegNum}

theorem State.spsrOf_setCoproc (s : State) (p : RegNum) (st : Coproc) (b : Bank) : (s.setCoproc p st).spsrOf b = s.spsrOf b := by
  cases b <;> rfl

theorem State.Keeps.keepsArm (h : (s.setCoproc p st).Keeps u regs) (a : Word) : s.KeepsArm { u with pc := a } regs := by
  obtain ⟨⟨-, -, -, hlock, -⟩, hspsrs, hbytes, hstored, hregs⟩ := h
  exact ⟨fun b => (State.spsrOf_withPc u a b).trans ((hspsrs b).trans (s.spsrOf_setCoproc p st b)), hbytes, hstored, hlock, hregs⟩

theorem State.setCoproc_writeBackIf (s : State) (wb : Bool) (rn : RegNum) (v : Word) (p : RegNum) (st : Coproc) :
    (s.writeBackIf wb rn v).setCoproc p st = (s.setCoproc p st).writeBackIf wb rn v := by
  cases wb with
  | false => rfl
  | true =>
    simp only [State.writeBackIf, if_true, State.setX, State.setBankReg]
    rw [State.setCoproc_cpsr]
    cases physReg s.cpsr.mode.bank rn with
    | none => rfl
    | some q => rfl

end Frame

/-! ### CDP, MCR and MRC (47_coprocessor.md R298, R303, R304) -/

section Operations
variable {s : State} {c : Cond} {p : RegNum} {crn crd rd crm : RegNum} {q : BitVec 3} {st : Coproc}

theorem exec_cdp_of_responder {o : BitVec 4} (hc : condPassed s.cpsr c = true)
    (h : s.responder p (encode (.cdp c o crn crd p q crm)) = some st) : exec (.cdp c o crn crd p q crm) s =
      s.advanceFrom (s.setCoproc p (Config.coprocCdp p (encode (.cdp c o crn crd p q crm)) st)) :=
  (State.whenPassed_of_passed hc _).trans (State.withResponder_of_some h _)

theorem exec_mcr_of_responder {o : BitVec 3} (hc : condPassed s.cpsr c = true) (hrd : rd ≠ 15#4)
    (h : s.responder p (encode (.mcr c o crn rd p q crm)) = some st) : exec (.mcr c o crn rd p q crm) s =
      s.advanceFrom (s.setCoproc p (Config.coprocMcr p (encode (.mcr c o crn rd p q crm)) (s.x rd) st)) :=
  (State.whenPassed_of_passed hc _).trans ((if_neg hrd).trans (State.withResponder_of_some h _))

/-- The word of an MRC in Rd, or its top 4 bits in the flags. -/
def State.mrcWritten (s : State) (rd : RegNum) (v : Word) : State :=
  if rd = 15#4 then s.setCpsr { s.cpsr with n := v.getLsbD 31, z := v.getLsbD 30, c := v.getLsbD 29, v := v.getLsbD 28 }
  else s.setX rd v

theorem exec_mrc_of_responder {o : BitVec 3} (hc : condPassed s.cpsr c = true)
    (h : s.responder p (encode (.mrc c o crn rd p q crm)) = some st) : exec (.mrc c o crn rd p q crm) s =
      s.advanceFrom ((s.setCoproc p (Config.coprocMrcState p (encode (.mrc c o crn rd p q crm)) st)).mrcWritten rd
        (Config.coprocMrcWord p (encode (.mrc c o crn rd p q crm)) st)) :=
  (State.whenPassed_of_passed hc _).trans (State.withResponder_of_some h _)

theorem State.keeps_mrcWritten (s : State) (rd : RegNum) (v : Word) : s.Keeps (s.mrcWritten rd v) (if rd = 15#4 then [] else [rd]) := by
  unfold State.mrcWritten
  split_ifs
  · exact (s.keeps_refl []).setCpsr _
  · exact s.keeps_setX (List.mem_singleton_self rd) v

theorem State.mrcWritten_of_ne (s : State) (hrd : rd ≠ 15#4) (v : Word) :
    (s.mrcWritten rd v).x rd = v ∧ (s.mrcWritten rd v).cpsr = s.cpsr := by
  rw [State.mrcWritten, if_neg hrd, State.x_setX _ _ _ _ hrd, if_pos rfl]
  exact ⟨rfl, State.setX_cpsr ..⟩

end Operations

/-- Settles O45: the coprocessor's new state is put in place; MRC then writes Rd or the flags. -/
theorem coprocessorOperations : Obligations.CoprocessorOperations := by
  unfold Obligations.CoprocessorOperations
  rintro c p q crm s st ⟨hc, hpc⟩ hst
  refine ⟨fun o crn crd haccepts => ?cdp, fun o crn rd hrd haccepts => ?mcr, fun o crn rd haccepts => ?mrc⟩
  case cdp =>
    rw [exec_cdp_of_responder hc (State.responder_of_accepts hst haccepts), State.advanceFrom_of_ne_top hpc]
    rfl
  case mcr =>
    rw [exec_mcr_of_responder hc hrd (State.responder_of_accepts hst haccepts), State.advanceFrom_of_ne_top hpc]
    rfl
  case mrc =>
    rw [exec_mrc_of_responder hc (State.responder_of_accepts hst haccepts), State.advanceFrom_of_ne_top hpc]
    intro v
    generalize Config.coprocMrcState p (encode (.mrc c o crn rd p q crm)) st = st'
    have hkeeps := (s.setCoproc p st').keeps_mrcWritten rd v
    refine ⟨_, rfl, rfl, ?coprocs, fun hrd => ?reg, fun hrd => ?flags, hkeeps.keepsArm _⟩
    case coprocs =>
      obtain ⟨⟨-, -, hcoprocs, -⟩, -⟩ := hkeeps
      exact hcoprocs
    case reg =>
      obtain ⟨hx, hcpsr⟩ := (s.setCoproc p st').mrcWritten_of_ne hrd v
      exact ⟨(State.x_withPc _ _ hrd).trans hx, hcpsr⟩
    case flags => exact congrArg State.cpsr (if_pos hrd)

/-! ### LDC and STC (47_coprocessor.md R299 to R301) -/

theorem coprocCount_pos (p : RegNum) (w : Word) (st : Coproc) : 0 < coprocCount p w st := Nat.succ_pos _

theorem State.coprocAddr_eq_ite (s : State) (ix : Indexing) (up : Bool) (rn : RegNum) (o : BitVec 8) :
    s.coprocAddr ix up rn o = if ix = .post then s.readRn rn else s.coprocIdx up rn o := selectAddr_eq_ite ..

/-- The first `n` words that a coprocessor gives for an STC. -/
def stcWords (p : RegNum) (w : Word) (st : Coproc) (n : Nat) : List Word := (List.range n).map (Config.coprocStcWord p w st)

section Words
variable {s : State} {p : RegNum} {w start : Word} {st : Coproc} {n j : Nat}

theorem length_stcWords : (stcWords p w st n).length = n := by simp [stcWords]

theorem take_stcWords (hj : j ≤ n) : (stcWords p w st n).take j = stcWords p w st j := by
  rw [stcWords, ← List.map_take, List.take_range, Nat.min_eq_left hj, stcWords]

theorem coprocStores_wordAddrs : coprocStores p w st (wordAddrs start n) = (wordAddrs start n).zip (stcWords p w st n) := by
  rw [coprocStores, length_wordAddrs, stcWords]

/-- What memory holds once the first `n` words of an STC are stored. -/
theorem State.storeFrom_stcWords {t : State} (hmem : s.MemOk) (haligned : ∀ k < n, (wordAddr start k).toNat % 4 = 0)
    (hmem' : t.mem = (s.storeFrom start (stcWords p w st n)).mem)
    (hstored : t.storedWords = (s.storeFrom start (stcWords p w st n)).storedWords) :
    (n ≤ 2 ^ 30 → ∀ k < n, t.leWord (wordAddr start k).toNat = (Config.coprocStcWord p w st k).toNat) ∧ s.StoresWords t start n := by
  have hlen : (stcWords p w st n).length = n := length_stcWords
  refine ⟨fun hn k hk => ?_, ?_⟩
  · have hval : (stcWords p w st n)[k]? = some (Config.coprocStcWord p w st k) := by simp [stcWords, hk]
    rw [State.leWord_congr hmem']
    exact State.leWord_storeFrom hmem (by rwa [hlen]) (by rwa [hlen]) hval
  · have hwords := State.storesWords_storeFrom (vals := stcWords p w st n) hmem (by rwa [hlen])
    rw [hlen] at hwords
    exact hwords.congr hmem' hstored

end Words

section Transfers
variable {s : State} {c : Cond} {ix : Indexing} {up long : Bool} {rn crd p : RegNum} {o : BitVec 8} {w : Word} {st : Coproc} {j : Nat}

/-- LDC and STC make the same checks before their accesses. -/
theorem exec_coprocTransfer {i : Instr} {dir : AccessDir}
    (hi : (i = .ldc c ix up long rn crd p o ∧ dir = .read) ∨ (i = .stc c ix up long rn crd p o ∧ dir = .write))
    (hc : condPassed s.cpsr c = true) (h : s.responder p (encode i) = some st) :
    ∃ access, exec i s = s.checkedCoproc ix up rn o (coprocCount p (encode i) st) dir access := by
  obtain ⟨rfl, rfl⟩ | ⟨rfl, rfl⟩ := hi
  · exact ⟨_, (State.whenPassed_of_passed hc _).trans (State.withResponder_of_some h _)⟩
  · exact ⟨_, (State.whenPassed_of_passed hc _).trans (State.withResponder_of_some h _)⟩

variable (hc : condPassed s.cpsr c = true) (hrn : ix ≠ .pre → rn ≠ 15#4)
include hc hrn

section Ldc
variable (hw : w = encode (.ldc c ix up long rn crd p o)) (h : s.responder p w = some st)
include hw h

theorem exec_ldc_of_through (hreach : s.BlockReaches (s.coprocAddr ix up rn o) (coprocCount p w st) .read) :
    exec (.ldc c ix up long rn crd p o) s = s.advanceFrom ((s.setCoproc p (Config.coprocLdc p w
      ((wordAddrs (s.coprocAddr ix up rn o) (coprocCount p w st)).map s.wordAt) st)).writeBackIf (writesBack ix) rn
        (s.coprocIdx up rn o)) := by
  subst hw
  refine ((State.whenPassed_of_passed hc _).trans (State.withResponder_of_some h _)).trans ?_
  rw [State.checkedCoproc_of_through hrn (coprocCount_pos ..) hreach]
  simp only [hreach.firstAbort, State.setCoproc_writeBackIf]

theorem exec_ldc_of_abort (hj : j < coprocCount p w st) (hlast : s.Reaches false (wordAddr (s.coprocAddr ix up rn o) j))
    (hbelow : s.BlockReaches (s.coprocAddr ix up rn o) j .read)
    (habort : s.aborts (wordAddr (s.coprocAddr ix up rn o) j) .word .read s.priv = true) :
    exec (.ldc c ix up long rn crd p o) s = (s.abortBase (writesBack ix) rn (s.coprocIdx up rn o)).dataAbort := by
  subst hw
  refine ((State.whenPassed_of_passed hc _).trans (State.withResponder_of_some h _)).trans ?_
  rw [State.checkedCoproc_of_abort hrn hj hlast hbelow habort]
  simp only [hbelow.firstAbort_eq_some hj habort]

end Ldc

section Stc
variable (hw : w = encode (.stc c ix up long rn crd p o)) (h : s.responder p w = some st)
include hw h

theorem exec_stc_of_through (hreach : s.BlockReaches (s.coprocAddr ix up rn o) (coprocCount p w st) .write) :
    exec (.stc c ix up long rn crd p o) s = s.advanceFrom
      (((s.storeFrom (s.coprocAddr ix up rn o) (stcWords p w st (coprocCount p w st))).setCoproc p
        (Config.coprocStcState p w st)).writeBackIf (writesBack ix) rn (s.coprocIdx up rn o)) := by
  subst hw
  refine ((State.whenPassed_of_passed hc _).trans (State.withResponder_of_some h _)).trans ?_
  rw [State.checkedCoproc_of_through hrn (coprocCount_pos ..) hreach]
  simp only [hreach.firstAbort, State.setCoproc_writeBackIf, coprocStores_wordAddrs, zip_wordAddrs_eq length_stcWords]

theorem exec_stc_of_abort (hj : j < coprocCount p w st) (hlast : s.Reaches false (wordAddr (s.coprocAddr ix up rn o) j))
    (hbelow : s.BlockReaches (s.coprocAddr ix up rn o) j .write)
    (habort : s.aborts (wordAddr (s.coprocAddr ix up rn o) j) .word .write s.priv = true) :
    exec (.stc c ix up long rn crd p o) s =
      ((s.storeFrom (s.coprocAddr ix up rn o) (stcWords p w st j)).abortBase (writesBack ix) rn (s.coprocIdx up rn o)).dataAbort := by
  subst hw
  refine ((State.whenPassed_of_passed hc _).trans (State.withResponder_of_some h _)).trans ?_
  rw [State.checkedCoproc_of_abort hrn hj hlast hbelow habort]
  simp only [hbelow.firstAbort_eq_some hj habort, coprocStores_wordAddrs, take_zip_wordAddrs_eq length_stcWords hj.le,
    take_stcWords hj.le]

end Stc
end Transfers

/-- Settles O46: the words are read or stored, the coprocessor takes its new state, the base is written back. -/
theorem coprocessorTransfers : Obligations.CoprocessorTransfers := by
  unfold Obligations.CoprocessorTransfers
  rintro c ix up long rn crd p o s st hmem ⟨hc, hpc⟩ hst hrn base idx addr
  have haddr : addr = s.coprocAddr ix up rn o := (s.coprocAddr_eq_ite ix up rn o).symm
  have hidx : idx = s.coprocIdx up rn o := rfl
  clear_value addr idx
  subst haddr hidx
  refine ⟨fun w hw haccepts hreach => ?ldc, fun w hw haccepts hreach => ?stc⟩
  case ldc =>
    rw [exec_ldc_of_through hc hrn hw (State.responder_of_accepts hst haccepts) hreach, State.advanceFrom_of_ne_top hpc]
    have hlen : ((wordAddrs (s.coprocAddr ix up rn o) (coprocCount p w st)).map s.wordAt).length = coprocCount p w st := by
      rw [List.length_map, length_wordAddrs]
    have hword (k : Nat) (v : Word) (hk : ((wordAddrs (s.coprocAddr ix up rn o) (coprocCount p w st)).map s.wordAt)[k]? = some v) :
        v.toNat = s.leWord (wordAddr (s.coprocAddr ix up rn o) k).toNat := by
      obtain ⟨hlt, -⟩ := List.getElem?_eq_some_iff.mp hk
      rw [hlen] at hlt
      rw [List.getElem?_map, getElem?_wordAddrs hlt] at hk
      obtain rfl := Option.some.inj hk
      exact s.toNat_wordAt (hreach.toNat_wordAddr_mod hlt)
    generalize (wordAddrs (s.coprocAddr ix up rn o) (coprocCount p w st)).map s.wordAt = words at *
    refine ⟨_, words, rfl, hlen, hword, State.writeBackIf_coprocs .., rfl, State.writeBackIf_cpsr .., fun hix => ?base,
      (State.keeps_writeBackIf_ix ..).keepsArm _⟩
    case base => exact (State.x_withPc _ _ (hrn hix)).trans (State.x_writeBackIf hix (hrn hix) _)
  case stc =>
    rw [exec_stc_of_through hc hrn hw (State.responder_of_accepts hst haccepts) hreach, State.advanceFrom_of_ne_top hpc]
    obtain ⟨hregs, hcpsr, -, ⟨-, -, hcoprocs, hlock, -⟩, hspsrs⟩ :=
      s.storeFrom_frame (s.coprocAddr ix up rn o) (stcWords p w st (coprocCount p w st))
    have hread := State.storeFrom_stcWords (t := ((s.storeFrom (s.coprocAddr ix up rn o) (stcWords p w st (coprocCount p w st))).setCoproc
      p (Config.coprocStcState p w st)).writeBackIf (writesBack ix) rn (s.coprocIdx up rn o)) hmem
      (fun k hk => hreach.toNat_wordAddr_mod hk) (State.writeBackIf_mem ..) (State.writeBackIf_storedWords ..)
    generalize s.storeFrom (s.coprocAddr ix up rn o) (stcWords p w st (coprocCount p w st)) = u at *
    obtain ⟨hwords, hstores⟩ := hread
    obtain ⟨hspsrs', -, -, hlock', hregs'⟩ := ((u.setCoproc p (Config.coprocStcState p w st)).keeps_writeBackIf_ix ix rn
      (s.coprocIdx up rn o)).keepsArm (s.pc + 4)
    rw [hcpsr] at hregs'
    refine ⟨_, rfl, fun k hk hn => hwords hn k hk, hstores, ?coprocs, rfl, (State.writeBackIf_cpsr ..).trans hcpsr, fun hix => ?base,
      hlock'.trans hlock, fun b => (hspsrs' b).trans (hspsrs b), fun q hq => (hregs' q hq).trans (State.phys_congr hregs q)⟩
    case coprocs => rw [State.writeBackIf_coprocs, State.setCoproc_coprocs, hcoprocs]
    case base => exact (State.x_withPc _ _ (hrn hix)).trans (State.x_writeBackIf hix (hrn hix) _)

/-- Settles O47: nothing but the base, and of an STC the words below the j-th, has been written when the data abort is taken. -/
theorem coprocessorTransferAborts : Obligations.CoprocessorTransferAborts := by
  unfold Obligations.CoprocessorTransferAborts
  intro c ix up long rn crd p o s st j hc hst hrn idx addr
  have haddr : addr = s.coprocAddr ix up rn o := (s.coprocAddr_eq_ite ix up rn o).symm
  have hidx : idx = s.coprocIdx up rn o := rfl
  clear_value addr idx
  subst haddr hidx
  intro hlast
  refine ⟨fun w hw haccepts hj hbelow habort => ?ldc, fun w hmem hw haccepts hj hbelow habort => ?stc⟩
  case ldc =>
    have hbase := s.abortBase_eq_ite ix rn (s.coprocIdx up rn o)
    rw [if_congr and_comm rfl rfl] at hbase
    rw [exec_ldc_of_abort hc hrn hw (State.responder_of_accepts hst haccepts) hj hlast hbelow habort, ← hbase]
    exact State.dataAbort_entered (s.abortBase_pc ..)
  case stc =>
    rw [exec_stc_of_abort hc hrn hw (State.responder_of_accepts hst haccepts) hj hlast hbelow habort]
    obtain ⟨hregs, hcpsr, hpc, hsystem, hspsrs⟩ := s.storeFrom_frame (s.coprocAddr ix up rn o) (stcWords p w st j)
    have hread := State.storeFrom_stcWords (t := (s.storeFrom (s.coprocAddr ix up rn o) (stcWords p w st j)).abortBase (writesBack ix) rn
      (s.coprocIdx up rn o)) hmem (fun k hk => hbelow.toNat_wordAddr_mod hk) (State.abortBase_mem ..) (State.abortBase_storedWords ..)
    generalize s.storeFrom (s.coprocAddr ix up rn o) (stcWords p w st j) = u at *
    obtain ⟨t, hnext, hentered⟩ := State.dataAbort_entered (s := s)
      ((u.abortBase_pc (writesBack ix) rn (s.coprocIdx up rn o)).trans hpc)
    have hkeeps : u.Keeps (u.abortBase (writesBack ix) rn (s.coprocIdx up rn o)) (if ix = .pre then [] else [rn]) :=
      (u.keeps_abortBase ..).mono fun i hi => by cases ix <;> exact hi
    obtain ⟨hsystem', hspsrs', hregs'⟩ := hkeeps.after_stores hsystem hspsrs hregs hcpsr
    refine ⟨_, t, hnext, hentered, (u.abortBase_cpsr ..).trans hcpsr, hsystem', hspsrs', hregs', fun hix => ?base, hread⟩
    case base =>
      rw [u.x_abortBase _ (hrn hix), State.x_congr (hrn hix) hregs (congrArg Cpsr.mode hcpsr)]
      simp only [writesBack_iff.mpr hix, true_and]

/-- Settles O48: the checks in their order, the accesses last. -/
theorem coprocessorStops : Obligations.CoprocessorStops := by
  unfold Obligations.CoprocessorStops
  refine ⟨?transfers, fun c o crn p q crm s hc => (State.whenPassed_of_passed hc _).trans (if_pos rfl)⟩
  intro c ix up long rn crd p o s st hc hst idx addr i dir hi haccepts
  have haddr : addr = s.coprocAddr ix up rn o := (s.coprocAddr_eq_ite ix up rn o).symm
  clear_value addr
  subst haddr
  obtain ⟨access, hexec⟩ := exec_coprocTransfer hi hc (State.responder_of_accepts hst haccepts)
  rw [hexec]
  refine ⟨fun hne => State.checkedCoproc_of_unaligned hne access, fun haligned hix hrn => ?writeback,
    fun haligned hrn hv j hj hbelow habove => ?above⟩
  case writeback => rw [State.checkedCoproc_of_aligned haligned, if_pos ⟨hrn, writesBack_iff.mpr hix⟩]
  case above =>
    rw [State.checkedCoproc_of_aligned haligned, if_neg (not_ldcWritebackR15 hrn),
      if_pos (State.any_outOfRange_reached (n := coprocCount p (encode i) st) hj hbelow hv habove)]

end Sys2Proof.Machine
end

section
/-! The top of the range of the pc (10_state.md R30): every instruction that steps on is refused there. -/

namespace Sys2Proof.Machine

section StepsOn
variable {s : State} {c : Cond}

theorem exec_dataOp_of_ne {op : DataOp} {sf : Bool} {rd rn : RegNum} {op2 : Op2} (hc : condPassed s.cpsr c = true) (hrd : rd ≠ 15#4)
    (h : op.Admits rn op2) : ∃ u, exec (op.instr c sf rd rn op2) s = s.advanceFrom u := by
  rw [exec_dataOp hc h]
  exact ⟨_, if_neg hrd⟩

theorem State.exists_spsr (hpriv : s.isPrivileged = true) : ∃ p, s.spsr = some p :=
  Option.ne_none_iff_exists'.mp fun hnone => ne_true_of_eq_false (State.spsr_eq_none_iff.mp hnone) hpriv

theorem State.writePsr_cpsr_eq_advanceFrom {part : PsrPart} {v : Word} (h : s.MsrAdmits part v) :
    ∃ u, s.writePsr false part v = s.advanceFrom u := by
  obtain ⟨q, hq⟩ := h.exists_writeFields
  have hrange : ¬ (q.mode.is26 && above64M (s.pc + 4)) = true := by
    rw [Bool.and_eq_true]
    rintro ⟨h26, habove⟩
    exact ne_true_of_eq_false (h.above64M_eq_false (Cpsr.wroteFields_of_writeFields hq) h26) habove
  rw [State.writePsr, if_neg Bool.false_ne_true, hq]
  exact ⟨_, if_neg hrange⟩

theorem State.writePsr_eq_advanceFrom {spsr : Bool} {part : PsrPart} {v : Word}
    (h : if spsr then s.isPrivileged = true else s.MsrAdmits part v) : ∃ u, s.writePsr spsr part v = s.advanceFrom u := by
  cases spsr with
  | false => exact State.writePsr_cpsr_eq_advanceFrom h
  | true =>
    obtain ⟨p, hp⟩ := State.exists_spsr h
    exact ⟨_, State.writePsr_spsr_of_some hp⟩

theorem exec_mrs_eq_advanceFrom {spsr : Bool} {rd : RegNum} (hc : condPassed s.cpsr c = true) (hrd : rd ≠ 15#4)
    (hpriv : spsr = true → s.isPrivileged = true) : ∃ u, exec (.mrs c spsr rd) s = s.advanceFrom u := by
  cases spsr with
  | false => exact ⟨_, exec_mrs_of_some hc hrd rfl⟩
  | true =>
    obtain ⟨p, hp⟩ := State.exists_spsr (hpriv rfl)
    exact ⟨_, exec_mrs_of_some hc hrd hp⟩

/-- CDP, MCR of another register than R15, and MRC, once the coprocessor has accepted the word. -/
theorem exec_coprocOperation {i : Instr} {p : RegNum} {st : Coproc} (hc : condPassed s.cpsr c = true)
    (h : s.responder p (encode i) = some st)
    (hi : (∃ o crn crd q crm, i = .cdp c o crn crd p q crm) ∨ (∃ o crn rd q crm, rd ≠ 15#4 ∧ i = .mcr c o crn rd p q crm) ∨
      (∃ o crn rd q crm, i = .mrc c o crn rd p q crm)) : ∃ u, exec i s = s.advanceFrom u := by
  obtain ⟨o, crn, crd, q, crm, rfl⟩ | ⟨o, crn, rd, q, crm, hrd, rfl⟩ | ⟨o, crn, rd, q, crm, rfl⟩ := hi
  · exact ⟨_, exec_cdp_of_responder hc h⟩
  · exact ⟨_, exec_mcr_of_responder hc hrd h⟩
  · exact ⟨_, exec_mrc_of_responder hc h⟩

end StepsOn

/-- Settles O12: each of them ends in a step from the address at the start, which there is none past the top. -/
theorem steppingPastTheTopIsRefused : Obligations.SteppingPastTheTopIsRefused := by
  unfold Obligations.SteppingPastTheTopIsRefused
  intro c s hc hpc
  have htop {r : Result} (h : ∃ u, r = s.advanceFrom u) : r = .refused .pcWrap := by
    obtain ⟨u, rfl⟩ := h
    exact State.advanceFrom_of_top hpc u
  refine ⟨fun op sf rd rn op2 hrd hadmits => ?data, fun op rn op2 hadmits => ⟨?test, fun h26 => ?pForm⟩,
    fun sf rd rn rs rm hne hrd hrm hrs => ⟨?mul, fun hrn => ?mla⟩,
    fun sf rh rl rs rm hrh hrl hrm hrs hhl hhm hlm i hi => ?long,
    fun byte tForm ix up rn rd off hadmits hreach => ⟨fun hrd habort => ?load, fun habort => ?store⟩,
    fun m hat wb rn list => ⟨fun hadmits h15 hreach => ?loadMultiple, fun hadmits hreach => ?storeMultiple⟩,
    fun byte rn rd rm hrn hrd hrm hreach hread hwrite => ?swap, fun spsr rd hrd hpriv => ?mrs,
    fun i spsr part v hi hadmits => ?msr, fun p st hst => ⟨fun i hi haccepts => ?coproc, fun ix up long rn crd o hrn => ?transfers⟩⟩
  case data => exact htop (exec_dataOp_of_ne hc hrd hadmits)
  case test => exact htop ⟨_, exec_testOp hc hadmits⟩
  case pForm => exact htop ⟨_, (exec_pTestOp hc hadmits).trans (if_pos h26)⟩
  case mul => exact htop ⟨_, exec_mul_of_admits hc hne hrd hrm hrs⟩
  case mla => exact htop ⟨_, exec_mla_of_admits hc hne hrd hrm hrs hrn⟩
  case long =>
    obtain ⟨p, hproduct⟩ := exists_isLongProduct s hi
    exact htop ⟨_, hproduct.exec_of_admits hc hrh hrl hrm hrs hhl hhm hlm⟩
  case load =>
    have hexec := exec_loadInstr_of_reaches hc hadmits hreach
    rw [habort, if_neg Bool.false_ne_true, if_neg hrd] at hexec
    exact htop ⟨_, hexec⟩
  case store =>
    have hexec := exec_storeInstr_of_reaches hc hadmits hreach
    rw [habort, if_neg Bool.false_ne_true] at hexec
    exact htop ⟨_, hexec⟩
  case loadMultiple => exact htop ⟨_, exec_loadMultiple_of_not_pc hc hadmits h15 hreach⟩
  case storeMultiple => exact htop ⟨_, exec_storeMultiple_of_admits hc hadmits hreach⟩
  case swap => exact htop ⟨_, exec_swapInstr_of_through hc hrn hrd hrm hreach hread hwrite⟩
  case mrs => exact htop (exec_mrs_eq_advanceFrom hc hrd hpriv)
  case msr =>
    rw [exec_msr_of_passed hc hi]
    exact htop (State.writePsr_eq_advanceFrom hadmits)
  case coproc => exact htop (exec_coprocOperation hc (State.responder_of_accepts hst haccepts) hi)
  case transfers =>
    intro idx addr
    have haddr : addr = s.coprocAddr ix up rn o := (s.coprocAddr_eq_ite ix up rn o).symm
    clear_value addr
    subst haddr
    exact ⟨fun w hw haccepts hreach => htop ⟨_, exec_ldc_of_through hc hrn hw (State.responder_of_accepts hst haccepts) hreach⟩,
      fun w hw haccepts hreach => htop ⟨_, exec_stc_of_through hc hrn hw (State.responder_of_accepts hst haccepts) hreach⟩⟩

end Sys2Proof.Machine
end
